-- ==== Sys2Proof/Word.lean ====
section
/-! DEFINITION. The widths of spec/00_scope.md R8: u4, u8, u12 and u16, all unsigned. -/

namespace Sys2Proof

/-- u4: a field nibble, a register or key index (00_scope.md R8, 30_encoding.md R46). -/
abbrev Nib := BitVec 4

/-- u8: a general register, a timer, a memory cell (10_state.md R12, R18, R20). -/
abbrev Byte := BitVec 8

/-- u12: the literal NNN (30_encoding.md R45). -/
abbrev Lit12 := BitVec 12

/-- u16: pc, I, a stack entry, an instruction word (10_state.md R14, R15, R16). -/
abbrev Word := BitVec 16

/-- A u4 index names one of 16 things. -/
theorem Nib.toNat_lt (n : Nib) : n.toNat < 16 := n.isLt

end Sys2Proof
end

