-- ==== Sys2Proof/Syntax.lean ====
section
/-! DEFINITION. The 35 instructions of spec/30_encoding.md R57, one constructor per row of spec/opcode_table.json. -/

namespace Sys2Proof

/-- One constructor per row of the opcode map (30_encoding.md R57).
A bit field that a row ignores (R50, R51, 42_alu.md R80, R82) is kept as an operand named `ign` (or as the Y
field of the shifts), because the record of a fatal error holds the raw opcode (60_exceptions.md R96) and so
that no two words share a term (log entry 7). -/
inductive Instr where
  | sys (nnn : Lit12)                 -- 0NNN
  | cls (ign : Nib)                   -- 0?E0
  | ret (ign : Nib)                   -- 0?EE
  | jp (nnn : Lit12)                  -- 1NNN
  | call (nnn : Lit12)                -- 2NNN
  | seImm (x : Nib) (nn : Byte)       -- 3XNN
  | sneImm (x : Nib) (nn : Byte)      -- 4XNN
  | seReg (x y ign : Nib)             -- 5XY?
  | ldImm (x : Nib) (nn : Byte)       -- 6XNN
  | addImm (x : Nib) (nn : Byte)      -- 7XNN
  | ldReg (x y : Nib)                 -- 8XY0
  | orReg (x y : Nib)                 -- 8XY1
  | andReg (x y : Nib)                -- 8XY2
  | xorReg (x y : Nib)                -- 8XY3
  | addReg (x y : Nib)                -- 8XY4
  | subReg (x y : Nib)                -- 8XY5
  | shr (x y : Nib)                   -- 8XY6
  | subnReg (x y : Nib)               -- 8XY7
  | shl (x y : Nib)                   -- 8XYE
  | sneReg (x y ign : Nib)            -- 9XY?
  | ldI (nnn : Lit12)                 -- ANNN
  | jpV0 (nnn : Lit12)                -- BNNN
  | rnd (x : Nib) (nn : Byte)         -- CXNN
  | drw (x y n : Nib)                 -- DXYN
  | skp (x : Nib)                     -- EX9E
  | sknp (x : Nib)                    -- EXA1
  | ldVxDt (x : Nib)                  -- FX07
  | ldVxK (x : Nib)                   -- FX0A
  | ldDtVx (x : Nib)                  -- FX15
  | ldStVx (x : Nib)                  -- FX18
  | addI (x : Nib)                    -- FX1E
  | ldF (x : Nib)                     -- FX29
  | ldB (x : Nib)                     -- FX33
  | saveRegs (x : Nib)                -- FX55
  | loadRegs (x : Nib)                -- FX65
  deriving DecidableEq, Repr

end Sys2Proof
end

