-- ==== Sys2Proof/WellFormed.lean ====
section
/-! DEFINITION. Which terms of Instr stand for a word of the opcode map. -/

namespace Sys2Proof

/-- The only bound between fields: a class-0 word whose low byte is 0xE0 or 0xEE is CLS or RET, never SYS
(30_encoding.md R50). Every other operand may hold any value of its width (R45). -/
def wellFormed : Instr → Bool
  | .sys nnn => nnn.setWidth 8 != 0xE0#8 && nnn.setWidth 8 != 0xEE#8
  | _ => true

end Sys2Proof
end

