-- ==== Sys2Proof/Decode.lean ====
section
/-! DEFINITION. The decoder and dispatcher of spec/30_encoding.md R44 to R52, and the encoder of R57. -/

namespace Sys2Proof

/-! ## The decoded view (30_encoding.md R45, R47) -/

/-- The transient record the decoder makes of a word (10_state.md R25); never part of the state. -/
structure View where
  op : Word
  x : Nib
  y : Nib
  nnn : Lit12
  n : Nib
  deriving DecidableEq, Repr

/-- Total on every word (30_encoding.md R47). -/
def decodeView (op : Word) : View :=
  { op := op
    x := op.extractLsb' 8 4
    y := op.extractLsb' 4 4
    nnn := op.extractLsb' 0 12
    n := op.extractLsb' 0 4 }

/-- The instruction class, bits 15:12, the first dispatch level (30_encoding.md R49). -/
def opClass (v : View) : Nib := v.op.extractLsb' 12 4

/-- NN = NNN[7:0] (30_encoding.md R45, R47). -/
def lowByte (v : View) : Byte := v.nnn.extractLsb' 0 8

/-! ## Dispatch (30_encoding.md R49 to R52) -/

/-- Why a word has no instruction. -/
inductive DecodeError where
  /-- The word matches no handler at any dispatch level (60_exceptions.md R97). The cycle turns it into the fatal
  error UnknownInstruction. -/
  | unknownInstruction (op : Word)
  deriving DecidableEq, Repr

/-- Class 0 selects on the low byte alone (30_encoding.md R50, 92_eei_decisions.md D2). -/
def dispatch0 (v : View) : Instr :=
  match lowByte v with
  | 0xE0#8 => .cls v.x
  | 0xEE#8 => .ret v.x
  | _ => .sys v.nnn

/-- Class 8 selects on the low nibble (30_encoding.md R50). -/
def dispatch8 (v : View) : Except DecodeError Instr :=
  match v.n with
  | 0x0#4 => .ok (.ldReg v.x v.y)
  | 0x1#4 => .ok (.orReg v.x v.y)
  | 0x2#4 => .ok (.andReg v.x v.y)
  | 0x3#4 => .ok (.xorReg v.x v.y)
  | 0x4#4 => .ok (.addReg v.x v.y)
  | 0x5#4 => .ok (.subReg v.x v.y)
  | 0x6#4 => .ok (.shr v.x v.y)
  | 0x7#4 => .ok (.subnReg v.x v.y)
  | 0xE#4 => .ok (.shl v.x v.y)
  | _ => .error (.unknownInstruction v.op)

/-- Class E selects on the low byte (30_encoding.md R50). -/
def dispatchE (v : View) : Except DecodeError Instr :=
  match lowByte v with
  | 0x9E#8 => .ok (.skp v.x)
  | 0xA1#8 => .ok (.sknp v.x)
  | _ => .error (.unknownInstruction v.op)

/-- Class F selects on the low byte (30_encoding.md R50). -/
def dispatchF (v : View) : Except DecodeError Instr :=
  match lowByte v with
  | 0x07#8 => .ok (.ldVxDt v.x)
  | 0x0A#8 => .ok (.ldVxK v.x)
  | 0x15#8 => .ok (.ldDtVx v.x)
  | 0x18#8 => .ok (.ldStVx v.x)
  | 0x1E#8 => .ok (.addI v.x)
  | 0x29#8 => .ok (.ldF v.x)
  | 0x33#8 => .ok (.ldB v.x)
  | 0x55#8 => .ok (.saveRegs v.x)
  | 0x65#8 => .ok (.loadRegs v.x)
  | _ => .error (.unknownInstruction v.op)

/-- The two-level discriminant (30_encoding.md R49). Classes 5 and 9 ignore the low nibble (R51,
92_eei_decisions.md D3). -/
def dispatch (v : View) : Except DecodeError Instr :=
  match opClass v with
  | 0x0#4 => .ok (dispatch0 v)
  | 0x1#4 => .ok (.jp v.nnn)
  | 0x2#4 => .ok (.call v.nnn)
  | 0x3#4 => .ok (.seImm v.x (lowByte v))
  | 0x4#4 => .ok (.sneImm v.x (lowByte v))
  | 0x5#4 => .ok (.seReg v.x v.y v.n)
  | 0x6#4 => .ok (.ldImm v.x (lowByte v))
  | 0x7#4 => .ok (.addImm v.x (lowByte v))
  | 0x8#4 => dispatch8 v
  | 0x9#4 => .ok (.sneReg v.x v.y v.n)
  | 0xA#4 => .ok (.ldI v.nnn)
  | 0xB#4 => .ok (.jpV0 v.nnn)
  | 0xC#4 => .ok (.rnd v.x (lowByte v))
  | 0xD#4 => .ok (.drw v.x v.y v.n)
  | 0xE#4 => dispatchE v
  | _ => dispatchF v

/-- The instruction a word stands for, or the reason it stands for none (30_encoding.md R52). -/
def decodeWord (op : Word) : Except DecodeError Instr := dispatch (decodeView op)

/-- Instruction words are big-endian: the byte at the lower address is bits 15:8 (20_memory.md R30). -/
def assembleWord (first second : Byte) : Word := first ++ second

/-- The decoder on the two bytes as memory holds them (20_memory.md R30, 30_encoding.md R44). -/
def decodeBytes (first second : Byte) : Except DecodeError Instr := decodeWord (assembleWord first second)

/-! ## The encoder (30_encoding.md R57) -/

/-- Class and NNN (30_encoding.md R45). -/
def wordNNN (c : Nib) (nnn : Lit12) : Word := c ++ nnn

/-- Class, X and NN (30_encoding.md R45). -/
def wordXNN (c x : Nib) (nn : Byte) : Word := c ++ x ++ nn

/-- Class, X, Y and N (30_encoding.md R45). -/
def wordXYN (c x y n : Nib) : Word := c ++ x ++ y ++ n

/-- The word of an instruction: the patterns of 30_encoding.md R57. -/
def encode : Instr → Word
  | .sys nnn => wordNNN 0x0#4 nnn
  | .cls ign => wordXNN 0x0#4 ign 0xE0#8
  | .ret ign => wordXNN 0x0#4 ign 0xEE#8
  | .jp nnn => wordNNN 0x1#4 nnn
  | .call nnn => wordNNN 0x2#4 nnn
  | .seImm x nn => wordXNN 0x3#4 x nn
  | .sneImm x nn => wordXNN 0x4#4 x nn
  | .seReg x y ign => wordXYN 0x5#4 x y ign
  | .ldImm x nn => wordXNN 0x6#4 x nn
  | .addImm x nn => wordXNN 0x7#4 x nn
  | .ldReg x y => wordXYN 0x8#4 x y 0x0#4
  | .orReg x y => wordXYN 0x8#4 x y 0x1#4
  | .andReg x y => wordXYN 0x8#4 x y 0x2#4
  | .xorReg x y => wordXYN 0x8#4 x y 0x3#4
  | .addReg x y => wordXYN 0x8#4 x y 0x4#4
  | .subReg x y => wordXYN 0x8#4 x y 0x5#4
  | .shr x y => wordXYN 0x8#4 x y 0x6#4
  | .subnReg x y => wordXYN 0x8#4 x y 0x7#4
  | .shl x y => wordXYN 0x8#4 x y 0xE#4
  | .sneReg x y ign => wordXYN 0x9#4 x y ign
  | .ldI nnn => wordNNN 0xA#4 nnn
  | .jpV0 nnn => wordNNN 0xB#4 nnn
  | .rnd x nn => wordXNN 0xC#4 x nn
  | .drw x y n => wordXYN 0xD#4 x y n
  | .skp x => wordXNN 0xE#4 x 0x9E#8
  | .sknp x => wordXNN 0xE#4 x 0xA1#8
  | .ldVxDt x => wordXNN 0xF#4 x 0x07#8
  | .ldVxK x => wordXNN 0xF#4 x 0x0A#8
  | .ldDtVx x => wordXNN 0xF#4 x 0x15#8
  | .ldStVx x => wordXNN 0xF#4 x 0x18#8
  | .addI x => wordXNN 0xF#4 x 0x1E#8
  | .ldF x => wordXNN 0xF#4 x 0x29#8
  | .ldB x => wordXNN 0xF#4 x 0x33#8
  | .saveRegs x => wordXNN 0xF#4 x 0x55#8
  | .loadRegs x => wordXNN 0xF#4 x 0x65#8

/-! ## The opcode table's numbering -/

/-- The first byte memory holds of a table word: bits 15:8, of the low `nbits` bits of `w`. -/
def tableFirstByte (nbits w : Nat) : Byte := BitVec.ofNat 8 (w % 2 ^ nbits / 256)

/-- The second byte memory holds of a table word: bits 7:0. -/
def tableSecondByte (nbits w : Nat) : Byte := BitVec.ofNat 8 (w % 2 ^ nbits)

/-- The decoder on a table word laid out as memory holds it, big-endian (20_memory.md R30); none where it
refuses the word. -/
def decodeTableWord (nbits w : Nat) : Option Instr :=
  match decodeBytes (tableFirstByte nbits w) (tableSecondByte nbits w) with
  | .ok i => some i
  | .error _ => none

end Sys2Proof
end

