-- ==== Sys2Proof/Config.lean ====
section
/-! DEFINITION. The parameters of spec/00_scope.md R6 and the spec's free values, as constants with no body. -/

namespace Sys2Proof

/-- Cells of memory (00_scope.md R6, 10_state.md R20). -/
abbrev Config.memorySize : Nat := 4096

/-- Where a program image is copied (00_scope.md R6, 70_reset_and_hazards.md R122). -/
abbrev Config.loadAddress : Nat := 0x200

/-- The longest image the load port accepts, 4096 − 0x200 (00_scope.md R6, R122). -/
abbrev Config.maxImage : Nat := 3584

/-- What the timer clock and the host do between one cycle and the next (60_exceptions.md R109, R115): how many
ticks fall, which key flags the host writes and in which order, and whether it consumes the dirty flag. The three
touch disjoint state, so their order against each other cannot be seen (log entry 3). -/
structure Gap where
  ticks : Nat
  keyWrites : List (Nib × Bool)
  dirtyConsumed : Bool
  deriving DecidableEq, Repr, Inhabited

/-- RNG, the random source: the n-th byte it supplies, with no law (00_scope.md R6, 60_exceptions.md R114,
92_eei_decisions.md D13). A free value (log entry 1). -/
opaque Config.randomByte : Nat → Byte

/-- KEYCHOICE: the n-th choice among the keys that are down, taken modulo how many are down (00_scope.md R6,
92_eei_decisions.md D12). A free value (log entry 2). -/
opaque Config.keyChoice : Nat → Nat

/-- TICKS and the host's actions: what happens in the n-th gap between two cycles (00_scope.md R6,
92_eei_decisions.md D16, D18). A free value (log entry 3). -/
opaque Config.gap : Nat → Gap

end Sys2Proof
end

