-- ==== Sys2Proof/Machine/State.lean ====
section
/-! DEFINITION. The state of spec/10_state.md (R12 to R27), the reasons a step can stop, and the state after reset
(spec/70_reset_and_hazards.md R120). -/

namespace Sys2Proof.Machine

/-- The error kinds of 60_exceptions.md R96. -/
inductive ErrorKind where
  | unknownInstruction
  | unsupportedInstruction
  | stackOverflow
  | stackUnderflow
  | keyIndexOutOfRange
  | loadOverflow
  deriving DecidableEq, Repr

/-- The record of a fatal error of a cycle: its kind, the raw opcode and the pc of the raising instruction
(60_exceptions.md R96). -/
structure ErrorRecord where
  kind : ErrorKind
  op : Word
  pc : Word
  deriving DecidableEq, Repr

/-- The run status (10_state.md R24). -/
inductive Status where
  | running
  | awaitingKey
  | halted (err : ErrorRecord)
  deriving DecidableEq, Repr

/-- Memory as the cells that differ from the reset contents, in rising order of address: the canonical form that
`Memory.wf` states (10_state.md R20; log entry 8). -/
abbrev Memory := List Host.Cell

/-- The 64×32 boolean grid, 32 rows of 64 columns (10_state.md R21). -/
abbrev Screen := Vector (Vector Bool 64) 32

/-- The architectural state of 10_state.md section 11, and four fields of the model's own at the end. -/
structure State where
  /-- V0..VF (R12, R13). -/
  v : Vector Byte 16
  /-- The program counter (R14). -/
  pc : Word
  /-- The index register I (R15). -/
  idx : Word
  /-- The 16 return addresses (R16). -/
  stack : Vector Word 16
  /-- How many stack entries are in use, 0 to 16 (R17; log entry 14). -/
  sp : Fin 17
  /-- The delay timer DT (R18). -/
  dt : Byte
  /-- The sound timer ST (R19). -/
  st : Byte
  /-- The 4096 cells (R20). -/
  mem : Memory
  /-- The framebuffer FB (R21). -/
  fb : Screen
  /-- The draw-dirty flag (R22). -/
  dirty : Bool
  /-- The 16 key flags, owned by the host (R23). -/
  keys : Vector Bool 16
  /-- The run status (R24). -/
  status : Status
  /-- The model's own: how many random bytes have been taken (log entries 1, 5). -/
  rngDraws : Nat
  /-- The model's own: how many key choices have been made (log entries 2, 5). -/
  keyDraws : Nat
  /-- The model's own: how many gaps between cycles have passed (log entries 3, 5). -/
  gaps : Nat
  /-- The model's own: the coming gaps that are already fixed; past its end each gap is free (log entry 4). -/
  schedule : List Gap
  deriving DecidableEq, Repr

/-- Why the machine stops. -/
inductive Fault where
  /-- Raised by `step` at a state whose status is Halted: no cycle runs there and the state is frozen
  (30_encoding.md R56, 60_exceptions.md R105). It carries the record of the fatal error. Safe. -/
  | halted (err : ErrorRecord)
  /-- Raised by `loadImage`, never by `step`: the image is longer than 3584 bytes (60_exceptions.md R102, code 6).
  It carries the image length. Safe. -/
  | loadOverflow (length : Nat)
  deriving DecidableEq, Repr

/-- Why an instruction has no meaning. -/
inductive Refusal where
  /-- Raised by `exec` for an instruction that the model has not reached; no arm raises it now. Safe. -/
  | notModelled (mnemonic : String)
  deriving DecidableEq, Repr

/-- What a cycle, a meaning or a step answers. -/
abbrev Result := Host.Outcome State Fault Refusal

/-- The state after reset, before any program load (70_reset_and_hazards.md R120, R121). Memory lists nothing: it
reads as the font at 0x000–0x04F and zero elsewhere. The last four fields are the model's own (log entry 5). -/
def State.reset : State :=
  { v := Vector.replicate 16 0x00
    pc := 0x200
    idx := 0x0000
    stack := Vector.replicate 16 0x0000
    sp := 0
    dt := 0x00
    st := 0x00
    mem := []
    fb := Vector.replicate 32 (Vector.replicate 64 false)
    dirty := false
    keys := Vector.replicate 16 false
    status := .running
    rngDraws := 0
    keyDraws := 0
    gaps := 0
    schedule := [] }

end Sys2Proof.Machine
end

