-- ==== Sys2Proof/Machine/Ops.lean ====
section
/-! DEFINITION. The named operations over memory, registers, stack, framebuffer, keys and status, the five pc
updates, and taking a fatal error, which the meanings share. -/

namespace Sys2Proof.Machine

/-! ## Memory (spec/20_memory.md) -/

/-- FONT, 16 glyphs of 5 bytes (70_reset_and_hazards.md R121, 92_eei_decisions.md D20). -/
def fontBytes : List Byte :=
  [0xF0, 0x90, 0x90, 0x90, 0xF0] ++ [0x20, 0x60, 0x20, 0x20, 0x70] ++
  [0xF0, 0x10, 0xF0, 0x80, 0xF0] ++ [0xF0, 0x10, 0xF0, 0x10, 0xF0] ++
  [0x90, 0x90, 0xF0, 0x10, 0x10] ++ [0xF0, 0x80, 0xF0, 0x10, 0xF0] ++
  [0xF0, 0x80, 0xF0, 0x90, 0xF0] ++ [0xF0, 0x10, 0x20, 0x40, 0x40] ++
  [0xF0, 0x90, 0xF0, 0x90, 0xF0] ++ [0xF0, 0x90, 0xF0, 0x10, 0xF0] ++
  [0xF0, 0x90, 0xF0, 0x90, 0x90] ++ [0xE0, 0x90, 0xE0, 0x90, 0xE0] ++
  [0xF0, 0x80, 0x80, 0x80, 0xF0] ++ [0xE0, 0x90, 0x90, 0x90, 0xE0] ++
  [0xF0, 0x80, 0xF0, 0x80, 0xF0] ++ [0xF0, 0x80, 0xF0, 0x80, 0x80]

/-- What an unlisted cell reads as: its reset contents, the font from 0x000 and zero past it (10_state.md R20,
20_memory.md R34; log entry 8). -/
def Memory.initial (a : Nat) : Byte := fontBytes.getD a 0x00

/-- The byte at a cell: the byte last written there, or the reset contents (20_memory.md R33). -/
def Memory.read : Memory → Nat → Byte
  | [], a => Memory.initial a
  | (k, b) :: rest, a => if a = k then b else Memory.read rest a

/-- The cells other than a. -/
def Memory.erase (m : Memory) (a : Nat) : Memory := m.filter (fun c => c.1 != a)

/-- A cell put in its place in the rising order of address. -/
def Memory.insert (a : Nat) (b : Byte) : Memory → Memory
  | [] => [(a, b)]
  | (k, c) :: rest => if a < k then (a, b) :: (k, c) :: rest else (k, c) :: Memory.insert a b rest

/-- A write changes its own cell alone (20_memory.md R33) and keeps the canonical form: a byte equal to the reset
contents is not listed (log entry 8). -/
def Memory.write (m : Memory) (a : Nat) (b : Byte) : Memory :=
  if b = Memory.initial a then Memory.erase m a else Memory.insert a b (Memory.erase m a)

/-- Canonical from address `lo` on: addresses rise strictly from `lo`, none reaches 4096, and no cell equals its
reset contents. -/
def Memory.wfFrom (lo : Nat) : Memory → Bool
  | [] => true
  | (k, b) :: rest =>
    decide (lo ≤ k) && decide (k < Config.memorySize) && decide (b ≠ Memory.initial k) && Memory.wfFrom (k + 1) rest

/-- The canonical form: equal contents are equal lists (log entry 8). -/
def Memory.wf (m : Memory) : Bool := Memory.wfFrom 0 m

/-- The cell an address reaches: every address is reduced mod 4096 (20_memory.md R29, 92_eei_decisions.md D4). -/
def cellOf (a : Word) : Nat := a.toNat % Config.memorySize

/-- MemRead(a, 1) (00_scope.md R9). -/
def memRead (a : Word) (s : State) : Byte := Memory.read s.mem (cellOf a)

/-- MemWrite(a, 1, v) (00_scope.md R9). -/
def memWrite (a : Word) (b : Byte) (s : State) : State := { s with mem := Memory.write s.mem (cellOf a) b }

/-- The instruction word at pc, with pc + 1 formed as a u16 (30_encoding.md R48, 20_memory.md R30). -/
def fetchWord (s : State) : Word := assembleWord (memRead s.pc s) (memRead (s.pc + 1) s)

/-- Two bytes stored where the next fetch reads them (for `State.withFetchWord`; log entry 11). -/
def placeWord (first second : Byte) (s : State) : State :=
  memWrite (s.pc + 1) second (memWrite s.pc first s)

/-! ## Registers (spec/10_state.md R12 to R15, R18, R19) -/

/-- V[r]. -/
def readReg (r : Nib) (s : State) : Byte := s.v[r.toNat]'r.toNat_lt

/-- V[r] <- b. -/
def writeReg (r : Nib) (b : Byte) (s : State) : State := { s with v := s.v.set r.toNat b r.toNat_lt }

/-- I <- w. -/
def setIdx (w : Word) (s : State) : State := { s with idx := w }

/-- DT <- b. -/
def setDt (b : Byte) (s : State) : State := { s with dt := b }

/-- ST <- b. -/
def setSt (b : Byte) (s : State) : State := { s with st := b }

/-- Status <- x. -/
def setStatus (x : Status) (s : State) : State := { s with status := x }

/-! ## The pc updates (spec/30_encoding.md R54), all mod 2^16; Hold is no update -/

/-- Jump(t): pc <- t. -/
def jumpTo (t : Word) (s : State) : State := { s with pc := t }

/-- Next: pc <- pc + 2. -/
def nextPc (s : State) : State := jumpTo (s.pc + 2) s

/-- Skip(c): pc <- pc + 4 if c, else pc + 2. -/
def skipIf (c : Bool) (s : State) : State := jumpTo (if c then s.pc + 4 else s.pc + 2) s

/-! ## The call stack (spec/10_state.md R16, R17) -/

/-- Stack[SP] <- a, then SP <- SP + 1; none when SP = 16 (60_exceptions.md R99). -/
def push (a : Word) (s : State) : Option State :=
  if h : s.sp.val < 16 then
    some { s with stack := s.stack.set s.sp.val a h, sp := ⟨s.sp.val + 1, by omega⟩ }
  else none

/-- SP <- SP − 1, then Stack[SP], which keeps its value (92_eei_decisions.md D9); none when SP = 0
(60_exceptions.md R100). -/
def pop (s : State) : Option (Word × State) :=
  if h : 0 < s.sp.val then
    some (s.stack[s.sp.val - 1]'(by omega), { s with sp := ⟨s.sp.val - 1, by omega⟩ })
  else none

/-! ## The framebuffer and its sink (spec/10_state.md R21, R22, spec/60_exceptions.md R112) -/

/-- get(x, y): the cell at column x, row y. -/
def fbGet (x : Fin 64) (y : Fin 32) (fb : Screen) : Bool := (fb[y.val]'y.isLt)[x.val]'x.isLt

/-- FB[x, y] <- b. -/
def fbPut (b : Bool) (x : Fin 64) (y : Fin 32) (fb : Screen) : Screen :=
  fb.set y.val ((fb[y.val]'y.isLt).set x.val b x.isLt) y.isLt

/-- set(x, y). -/
def fbSet (x : Fin 64) (y : Fin 32) (fb : Screen) : Screen := fbPut true x y fb

/-- clear(x, y). -/
def fbClear (x : Fin 64) (y : Fin 32) (fb : Screen) : Screen := fbPut false x y fb

/-- FB[x, y] <- not FB[x, y], through clear when the cell was true and through set when it was false
(60_exceptions.md R112, 90_conflicts.md C5). -/
def fbFlip (x : Fin 64) (y : Fin 32) (fb : Screen) : Screen :=
  if fbGet x y fb then fbClear x y fb else fbSet x y fb

/-- Every cell false (40_display.md R60). -/
def blankScreen : Screen := Vector.replicate 32 (Vector.replicate 64 false)

/-- FB <- fb. -/
def setFb (fb : Screen) (s : State) : State := { s with fb := fb }

/-- Dirty <- true (10_state.md R22). -/
def raiseDirty (s : State) : State := { s with dirty := true }

/-! ## Keys and draws (spec/10_state.md R23, R26, spec/44_timers_keys.md R95) -/

/-- Key[k]. -/
def keyDown (k : Nib) (s : State) : Bool := s.keys[k.toNat]'k.toNat_lt

/-- The 16 key indices, in rising order. -/
def allKeys : List Nib := [0x0, 0x1, 0x2, 0x3, 0x4, 0x5, 0x6, 0x7, 0x8, 0x9, 0xA, 0xB, 0xC, 0xD, 0xE, 0xF]

/-- P, the keys that are down (44_timers_keys.md R95). -/
def pressedKeys (s : State) : List Nib := allKeys.filter (fun k => keyDown k s)

/-- RandomByte(): the next byte of the free source (00_scope.md R9, 92_eei_decisions.md D13; log entry 1). -/
def randomByte (s : State) : Byte := Config.randomByte s.rngDraws

/-- The source moves on by one byte. -/
def dropRandom (s : State) : State := { s with rngDraws := s.rngDraws + 1 }

/-- KEYCHOICE(P) for the non-empty P = k :: ks: a free choice among its members (92_eei_decisions.md D12; log entry
2). -/
def chosenKey (k : Nib) (ks : List Nib) (s : State) : Nib :=
  (k :: ks).getD (Config.keyChoice s.keyDraws % (ks.length + 1)) k

/-- The choice is used up. -/
def dropChoice (s : State) : State := { s with keyDraws := s.keyDraws + 1 }

/-! ## Fatal errors (spec/60_exceptions.md R96) -/

/-- The numeric codes of 60_exceptions.md R96. -/
def errorCode : ErrorKind → Nat
  | .unknownInstruction => 1
  | .unsupportedInstruction => 2
  | .stackOverflow => 3
  | .stackUnderflow => 4
  | .keyIndexOutOfRange => 5
  | .loadOverflow => 6

/-- Taking a fatal error: Status <- Halted(kind, op, pc) and nothing else; it has no vector and saves nothing but
its record, and there is no return from it (60_exceptions.md R96, R104, R105; log entry 6). -/
def raiseError (kind : ErrorKind) (op : Word) (s : State) : Result :=
  .next (setStatus (.halted { kind := kind, op := op, pc := s.pc }) s)

/-- Whether the core has taken a fatal error. -/
def isHalted (s : State) : Bool :=
  match s.status with
  | .halted _ => true
  | .running => false
  | .awaitingKey => false

end Sys2Proof.Machine
end

