-- ==== Sys2Proof/Machine/Operands.lean ====
section
/-! DEFINITION. The operand forms of spec/30_encoding.md R46. Registers V[X], V[Y], V0 and VF are read by `readReg`;
I, DT, ST, pc and SP are fields of the state. -/

namespace Sys2Proof.Machine

/-- VF, the flag register (10_state.md R13). -/
def flagReg : Nib := 0xF

/-- zext_16(NNN) (30_encoding.md R46). -/
def literal16 (nnn : Lit12) : Word := nnn.setWidth 16

/-- zext_16 of a byte (00_scope.md R8). -/
def byte16 (b : Byte) : Word := b.setWidth 16

/-- zext_8 of a nibble (44_timers_keys.md R95). -/
def nibble8 (n : Nib) : Byte := n.setWidth 8

/-- I + k, formed as a u16; every access then reduces it mod 4096 (20_memory.md R29). -/
def indexed (k : Nat) (s : State) : Word := s.idx + BitVec.ofNat 16 k

/-- The register numbered k, for k in 0..15 (43_index_memory.md R88, R89). -/
def regNumber (k : Nat) : Nib := BitVec.ofNat 4 k

/-- Key[V[X] as index]: the key named by V[X], none when V[X] exceeds 0x0F (44_timers_keys.md R90,
60_exceptions.md R101, 92_eei_decisions.md D11). -/
def keyOperand (x : Nib) (s : State) : Option Nib :=
  if readReg x s > 0x0F then none else some ((readReg x s).setWidth 4)

end Sys2Proof.Machine
end

