-- ==== Sys2Proof/Machine/Flags.lean ====
section
/-! DEFINITION. The flag conventions of spec/42_alu.md R71 and the one way a flag is written beside a result. -/

namespace Sys2Proof.Machine

/-- A flag as VF holds it: 0x01 or 0x00 (42_alu.md R71). -/
def flagByte (b : Bool) : Byte := if b then 0x01 else 0x00

/-- zext_9(a) + zext_9(b), the 9-bit intermediate sum (42_alu.md R78). -/
def sum9 (a b : Byte) : BitVec 9 := a.setWidth 9 + b.setWidth 9

/-- The carry, bit 8 of the 9-bit sum (42_alu.md R78). -/
def carryOut (a b : Byte) : Bool := (sum9 a b).getLsbD 8

/-- NOT borrow of a − b (42_alu.md R79, R81). -/
def noBorrow (a b : Byte) : Bool := decide (a ≥ b)

/-- The bit a right shift by one shifts out (42_alu.md R80). -/
def lowBit (a : Byte) : Bool := a.getLsbD 0

/-- The bit a left shift by one shifts out (42_alu.md R82). -/
def highBit (a : Byte) : Bool := a.getLsbD 7

/-- V[X] <- result, then VF <- flag, so that with X = F VF ends holding the flag (42_alu.md R71,
92_eei_decisions.md D7). -/
def writeWithFlag (x : Nib) (result : Byte) (flag : Bool) (s : State) : State :=
  writeReg flagReg (flagByte flag) (writeReg x result s)

end Sys2Proof.Machine
end

