-- ==== Sys2Proof/Machine/Alu.lean ====
section
/-! DEFINITION. spec/42_alu.md: loads, moves, bitwise operations, add, subtract, shift and RND. -/

namespace Sys2Proof.Machine

/-- LD Vx, NN (R72). -/
def execLdImm (x : Nib) (nn : Byte) (s : State) : Result := .next (nextPc (writeReg x nn s))

/-- ADD Vx, NN (R73): no flag. -/
def execAddImm (x : Nib) (nn : Byte) (s : State) : Result := .next (nextPc (writeReg x (readReg x s + nn) s))

/-- LD Vx, Vy (R74). -/
def execLdReg (x y : Nib) (s : State) : Result := .next (nextPc (writeReg x (readReg y s) s))

/-- OR Vx, Vy (R75). -/
def execOrReg (x y : Nib) (s : State) : Result := .next (nextPc (writeReg x (readReg x s ||| readReg y s) s))

/-- AND Vx, Vy (R76). -/
def execAndReg (x y : Nib) (s : State) : Result := .next (nextPc (writeReg x (readReg x s &&& readReg y s) s))

/-- XOR Vx, Vy (R77). -/
def execXorReg (x y : Nib) (s : State) : Result := .next (nextPc (writeReg x (readReg x s ^^^ readReg y s) s))

/-- ADD Vx, Vy (R78): the low 8 bits of the 9-bit sum, VF the carry. -/
def execAddReg (x y : Nib) (s : State) : Result :=
  let a := readReg x s
  let b := readReg y s
  .next (nextPc (writeWithFlag x ((sum9 a b).setWidth 8) (carryOut a b) s))

/-- SUB Vx, Vy (R79): V[X] − V[Y], VF = NOT borrow. -/
def execSubReg (x y : Nib) (s : State) : Result :=
  let a := readReg x s
  let b := readReg y s
  .next (nextPc (writeWithFlag x (a - b) (noBorrow a b) s))

/-- SHR Vx (R80): Y is ignored. -/
def execShr (x _y : Nib) (s : State) : Result :=
  let a := readReg x s
  .next (nextPc (writeWithFlag x (a >>> 1) (lowBit a) s))

/-- SUBN Vx, Vy (R81): V[Y] − V[X], VF = NOT borrow. -/
def execSubnReg (x y : Nib) (s : State) : Result :=
  let a := readReg x s
  let b := readReg y s
  .next (nextPc (writeWithFlag x (b - a) (noBorrow b a) s))

/-- SHL Vx (R82): Y is ignored. -/
def execShl (x _y : Nib) (s : State) : Result :=
  let a := readReg x s
  .next (nextPc (writeWithFlag x (a <<< 1) (highBit a) s))

/-- RND Vx, NN (R83): a fresh byte of the free source, masked. -/
def execRnd (x : Nib) (nn : Byte) (s : State) : Result :=
  .next (nextPc (writeReg x (randomByte s &&& nn) (dropRandom s)))

end Sys2Proof.Machine
end

