-- ==== Sys2Proof/Machine/Control.lean ====
section
/-! DEFINITION. spec/41_control_flow.md: CALL, RET, the jumps, the literal and register skips, SYS. -/

namespace Sys2Proof.Machine

/-- SYS (R70): always the fatal error UnsupportedInstruction (60_exceptions.md R98). -/
def execSys (nnn : Lit12) (s : State) : Result :=
  raiseError .unsupportedInstruction (encode (.sys nnn)) s

/-- RET (R63): StackUnderflow at SP = 0 (60_exceptions.md R100); else pc is the popped entry plus 2. -/
def execRet (ign : Nib) (s : State) : Result :=
  match pop s with
  | none => raiseError .stackUnderflow (encode (.ret ign)) s
  | some (a, s') => .next (jumpTo (a + 2) s')

/-- JP (R64). -/
def execJp (nnn : Lit12) (s : State) : Result := .next (jumpTo (literal16 nnn) s)

/-- CALL (R62): StackOverflow at SP = 16 (60_exceptions.md R99); else the address of the CALL itself is pushed. -/
def execCall (nnn : Lit12) (s : State) : Result :=
  match push s.pc s with
  | none => raiseError .stackOverflow (encode (.call nnn)) s
  | some s' => .next (jumpTo (literal16 nnn) s')

/-- SE Vx, NN (R66). -/
def execSeImm (x : Nib) (nn : Byte) (s : State) : Result := .next (skipIf (readReg x s == nn) s)

/-- SNE Vx, NN (R67). -/
def execSneImm (x : Nib) (nn : Byte) (s : State) : Result := .next (skipIf (readReg x s != nn) s)

/-- SE Vx, Vy (R68): the low nibble is ignored. -/
def execSeReg (x y _ign : Nib) (s : State) : Result := .next (skipIf (readReg x s == readReg y s) s)

/-- SNE Vx, Vy (R69): the low nibble is ignored. -/
def execSneReg (x y _ign : Nib) (s : State) : Result := .next (skipIf (readReg x s != readReg y s) s)

/-- JP V0 (R65): the offset register is always V0. -/
def execJpV0 (nnn : Lit12) (s : State) : Result :=
  .next (jumpTo (literal16 nnn + byte16 (readReg 0x0 s)) s)

end Sys2Proof.Machine
end

