-- ==== Sys2Proof/Machine/Display.lean ====
section
/-! DEFINITION. spec/40_display.md: CLS and DRW. -/

namespace Sys2Proof.Machine

/-- CLS (R60): the operand is the ignored nibble. -/
def execCls (_ign : Nib) (s : State) : Result :=
  .next (nextPc (raiseDirty (setFb blankScreen s)))

/-- The framebuffer as it is being drawn, and whether a set pixel has been turned off. -/
structure Blit where
  fb : Screen
  hit : Bool
  deriving DecidableEq, Repr

/-- (x0 + c) mod 64 (R61, 92_eei_decisions.md D10). -/
def column (x0 : Byte) (c : Nat) : Fin 64 := Fin.ofNat 64 (x0.toNat + c)

/-- (y0 + r) mod 32 (R61, 92_eei_decisions.md D10). -/
def row (y0 : Byte) (r : Nat) : Fin 32 := Fin.ofNat 32 (y0.toNat + r)

/-- The sprite bit of column c in a row byte, most significant bit first (R61). -/
def spriteBit (b : Byte) (c : Nat) : Bool := b.getLsbD (7 - c)

/-- One sprite bit: a 1 flips its cell and records whether the cell was set; a 0 does nothing (R61). -/
def blitPixel (on : Bool) (x : Fin 64) (y : Fin 32) (d : Blit) : Blit :=
  if on then { fb := fbFlip x y d.fb, hit := d.hit || fbGet x y d.fb } else d

/-- One row: columns 0 to 7 (R61). -/
def blitRow (x0 y0 : Byte) (r : Nat) (b : Byte) (d : Blit) : Blit :=
  (List.range 8).foldl (fun d c => blitPixel (spriteBit b c) (column x0 c) (row y0 r) d) d

/-- All rows, row r from the byte at I + r (R61, 20_memory.md R29). -/
def blitSprite (x0 y0 : Byte) (height : Nat) (s : State) : Blit :=
  (List.range height).foldl (fun d r => blitRow x0 y0 r (memRead (indexed r s) s) d) { fb := s.fb, hit := false }

/-- DRW (R61): the coordinates are read before VF is written. -/
def execDrw (x y n : Nib) (s : State) : Result :=
  let d := blitSprite (readReg x s) (readReg y s) n.toNat s
  .next (nextPc (raiseDirty (writeReg flagReg (flagByte d.hit) (setFb d.fb s))))

end Sys2Proof.Machine
end

