-- ==== Sys2Proof/Machine/IndexMemory.lean ====
section
/-! DEFINITION. spec/43_index_memory.md: the index register, BCD, save and restore. -/

namespace Sys2Proof.Machine

/-- LD I, NNN (R84). -/
def execLdI (nnn : Lit12) (s : State) : Result := .next (nextPc (setIdx (literal16 nnn) s))

/-- ADD I, Vx (R87): mod 2^16, no flag. -/
def execAddI (x : Nib) (s : State) : Result := .next (nextPc (setIdx (s.idx + byte16 (readReg x s)) s))

/-- LD F, Vx (R85): V[X] is not reduced to its low nibble. -/
def execLdF (x : Nib) (s : State) : Result := .next (nextPc (setIdx (byte16 (readReg x s) * 5) s))

/-- The hundreds digit of a byte, 0 to 2 (R86). -/
def hundreds (a : Byte) : Byte := a / 100

/-- The tens digit of a byte (R86). -/
def tens (a : Byte) : Byte := a / 10 % 10

/-- The units digit of a byte (R86). -/
def units (a : Byte) : Byte := a % 10

/-- LD B, Vx (R86): the three digits at I, I + 1 and I + 2. -/
def execLdB (x : Nib) (s : State) : Result :=
  let a := readReg x s
  let s1 := memWrite (indexed 0 s) (hundreds a) s
  let s2 := memWrite (indexed 1 s1) (tens a) s1
  let s3 := memWrite (indexed 2 s2) (units a) s2
  .next (nextPc s3)

/-- for k in 0 .. n−1: MemWrite(I + k, 1, V[k]) (R88). -/
def storeRegs (n : Nat) (s : State) : State :=
  (List.range n).foldl (fun t k => memWrite (indexed k t) (readReg (regNumber k) t) t) s

/-- for k in 0 .. n−1: V[k] <- MemRead(I + k, 1) (R89). -/
def fillRegs (n : Nat) (s : State) : State :=
  (List.range n).foldl (fun t k => writeReg (regNumber k) (memRead (indexed k t) t) t) s

/-- LD [I], Vx (R88): V0..VX inclusive; I unchanged. -/
def execSaveRegs (x : Nib) (s : State) : Result := .next (nextPc (storeRegs (x.toNat + 1) s))

/-- LD Vx, [I] (R89): V0..VX inclusive; I unchanged. -/
def execLoadRegs (x : Nib) (s : State) : Result := .next (nextPc (fillRegs (x.toNat + 1) s))

end Sys2Proof.Machine
end

