-- ==== Sys2Proof/Machine/KeysTimers.lean ====
section
/-! DEFINITION. spec/44_timers_keys.md: the key skips, the key wait, the timer moves. -/

namespace Sys2Proof.Machine

/-- SKP Vx (R90): KeyIndexOutOfRange when V[X] exceeds 0x0F (60_exceptions.md R101). -/
def execSkp (x : Nib) (s : State) : Result :=
  match keyOperand x s with
  | none => raiseError .keyIndexOutOfRange (encode (.skp x)) s
  | some k => .next (skipIf (keyDown k s) s)

/-- SKNP Vx (R91). -/
def execSknp (x : Nib) (s : State) : Result :=
  match keyOperand x s with
  | none => raiseError .keyIndexOutOfRange (encode (.sknp x)) s
  | some k => .next (skipIf (!keyDown k s) s)

/-- LD Vx, DT (R92). -/
def execLdVxDt (x : Nib) (s : State) : Result := .next (nextPc (writeReg x s.dt s))

/-- LD Vx, K (R95): with no key down, Hold and AwaitingKey; else a pressed key's index, Running and Next. -/
def execLdVxK (x : Nib) (s : State) : Result :=
  match pressedKeys s with
  | [] => .next (setStatus .awaitingKey s)
  | k :: ks =>
    .next (nextPc (setStatus .running (writeReg x (nibble8 (chosenKey k ks s)) (dropChoice s))))

/-- LD DT, Vx (R93). -/
def execLdDtVx (x : Nib) (s : State) : Result := .next (nextPc (setDt (readReg x s) s))

/-- LD ST, Vx (R94). -/
def execLdStVx (x : Nib) (s : State) : Result := .next (nextPc (setSt (readReg x s) s))

end Sys2Proof.Machine
end

