-- ==== Sys2Proof/Machine/Cycle.lean ====
section
/-! DEFINITION. One cycle of the core: spec/30_encoding.md R55. -/

namespace Sys2Proof.Machine

/-- Fetch, decode, dispatch one handler to completion; a word with no handler raises UnknownInstruction
(60_exceptions.md R97). It requires a status other than Halted (R56), which `step` checks. -/
def cycle (s : State) : Result :=
  match decodeWord (fetchWord s) with
  | .ok i => exec i s
  | .error (.unknownInstruction op) => raiseError .unknownInstruction op s

end Sys2Proof.Machine
end

