-- ==== Sys2Proof/Machine/HostPort.lean ====
section
/-! DEFINITION. The timer clock and the host: spec/60_exceptions.md R108 to R116 and the program load of
spec/70_reset_and_hazards.md R122. -/

namespace Sys2Proof.Machine

/-! ## The timer clock -/

/-- One timer's part of a tick: a timer at 0 stays at 0 (R108). -/
def countDown (t : Byte) : Byte := if t > 0 then t - 1 else t

/-- One timer tick (R108). -/
def tick (s : State) : State := { s with dt := countDown s.dt, st := countDown s.st }

/-- One timer's part of n ticks (R109). -/
def countDownBy : Nat → Byte → Byte
  | 0, t => t
  | n + 1, t => countDownBy n (countDown t)

/-- n timer ticks, one after another. -/
def ticks (n : Nat) (s : State) : State := { s with dt := countDownBy n s.dt, st := countDownBy n s.st }

/-! ## The host's ports -/

/-- Key[k] <- b, on the flags alone (R113). -/
def putKey (keys : Vector Bool 16) (w : Nib × Bool) : Vector Bool 16 := keys.set w.1.toNat w.2 w.1.toNat_lt

/-- The host sets or clears one key flag (R113, R115). -/
def writeKey (k : Nib) (b : Bool) (s : State) : State := { s with keys := putKey s.keys (k, b) }

/-- The host writes key flags, one after another. -/
def writeKeys (ws : List (Nib × Bool)) (s : State) : State := { s with keys := ws.foldl putKey s.keys }

/-- The host's dirty consume: it reads Dirty, then writes false (R112, R115). -/
def consumeDirty (s : State) : State := { s with dirty := false }

/-- The dirty consume, if the host does one. -/
def consumeDirtyIf (c : Bool) (s : State) : State := { s with dirty := s.dirty && !c }

/-! ## Between two cycles (R109, R115; log entries 3, 4) -/

/-- What happens in the coming gap: the next entry of the schedule, or a free value past its end. -/
def nextGap (s : State) : Gap :=
  match s.schedule with
  | [] => Config.gap s.gaps
  | g :: _ => g

/-- The gap is used up. -/
def dropGap (s : State) : State := { s with gaps := s.gaps + 1, schedule := s.schedule.tail }

/-- The ticks and host actions of a gap. -/
def applyGap (g : Gap) (s : State) : State :=
  consumeDirtyIf g.dirtyConsumed (writeKeys g.keyWrites (ticks g.ticks s))

/-- What the timer clock and the host do after a cycle; nothing after Halted (R105, R109, 92_eei_decisions.md D15,
D16). -/
def betweenCycles (s : State) : State :=
  if isHalted s then s else applyGap (nextGap s) (dropGap s)

/-- A cycle's outcome, carried to the start of the next cycle. -/
def thenGap : Result → Result
  | .next s => .next (betweenCycles s)
  | .fault r => .fault r
  | .refused r => .refused r

/-! ## The program load (70_reset_and_hazards.md R122) -/

/-- Stores image bytes at consecutive cells from a. -/
def storeImage (a : Nat) : List Byte → Memory → Memory
  | [], m => m
  | b :: rest, m => storeImage (a + 1) rest (Memory.write m a b)

/-- The program-load port: once, after reset and before the first cycle (R122, 92_eei_decisions.md D21). An image
longer than 3584 bytes is LoadOverflow, with no byte written (60_exceptions.md R102; log entry 12). -/
def loadImage (image : List Byte) (s : State) : Result :=
  if image.length > Config.maxImage then .fault (.loadOverflow image.length)
  else .next { s with mem := storeImage Config.loadAddress image s.mem }

/-- Reset, font, program load: the state the first cycle starts from (R123). -/
def boot (image : List Byte) : Result := loadImage image State.reset

/-- The numeric code of a stop (60_exceptions.md R96). -/
def faultCode : Fault → Nat
  | .halted err => errorCode err.kind
  | .loadOverflow _ => errorCode .loadOverflow

end Sys2Proof.Machine
end

