-- ==== Sys2Proof/Machine/Step.lean ====
section
/-! DEFINITION. One step: a cycle of the core (spec/30_encoding.md R55), then what the timer clock and the host do
before the next cycle (spec/60_exceptions.md R109, R115). -/

namespace Sys2Proof.Machine

/-- No cycle runs when the status is Halted (30_encoding.md R56). Running and AwaitingKey behave the same
(10_state.md R24). -/
def step (s : State) : Host.Outcome State Fault Refusal :=
  match s.status with
  | .halted err => .fault (.halted err)
  | .running => thenGap (cycle s)
  | .awaitingKey => thenGap (cycle s)

/-- s with a table word stored where the next fetch reads it (log entry 11). -/
def State.withFetchWord (s : State) (nbits w : Nat) : State :=
  placeWord (tableFirstByte nbits w) (tableSecondByte nbits w) s

end Sys2Proof.Machine
end

