-- ==== Sys2Proof/Safety.lean ====
section
/-! DEFINITION. The words the claims are stated in: what an instruction leaves unchanged, the shapes that several
instructions share, what a sprite lights, and the invariant of the machine. -/

namespace Sys2Proof.Machine

/-! ## Frames -/

/-- The parts of the state besides the general registers: one for each row of 10_state.md section 11, and one for
each of the model's own fields (`host` is `gaps` and `schedule` together). -/
inductive StatePart where
  | pc | idx | stack | sp | dt | st | mem | fb | dirty | keys | status | rngDraws | keyDraws | host
  deriving DecidableEq, Repr

/-- The part reads the same in t as in s: memory at every address, the framebuffer at every cell, the stack at every
entry, the keys at every index. -/
def SamePart (s t : State) : StatePart → Prop
  | .pc => t.pc = s.pc
  | .idx => t.idx = s.idx
  | .stack => ∀ j : Fin 16, t.stack[j] = s.stack[j]
  | .sp => t.sp = s.sp
  | .dt => t.dt = s.dt
  | .st => t.st = s.st
  | .mem => ∀ a : Word, memRead a t = memRead a s
  | .fb => ∀ (x : Fin 64) (y : Fin 32), fbGet x y t.fb = fbGet x y s.fb
  | .dirty => t.dirty = s.dirty
  | .keys => ∀ k : Nib, keyDown k t = keyDown k s
  | .status => t.status = s.status
  | .rngDraws => t.rngDraws = s.rngDraws
  | .keyDraws => t.keyDraws = s.keyDraws
  | .host => t.gaps = s.gaps ∧ t.schedule = s.schedule

/-- Every part outside the list reads the same. -/
def OnlyParts (changed : List StatePart) (s t : State) : Prop := ∀ p, p ∉ changed → SamePart s t p

/-- Every general register outside the list reads the same. -/
def OnlyRegs (changed : List Nib) (s t : State) : Prop := ∀ r, r ∉ changed → readReg r t = readReg r s

/-! ## Shapes that several instructions share -/

/-- i completes at s by writing b to V[x] and advancing pc by 2, and changes nothing else. -/
def WritesReg (i : Instr) (s : State) (x : Nib) (b : Byte) : Prop :=
  ∃ t, exec i s = .next t ∧ readReg x t = b ∧ t.pc = s.pc + 2 ∧ OnlyRegs [x] s t ∧ OnlyParts [.pc] s t

/-- i completes at s by writing the flag to VF, b to V[x] unless V[x] is VF, and advancing pc by 2, and changes
nothing else. -/
def WritesRegAndFlag (i : Instr) (s : State) (x : Nib) (b : Byte) (flag : Prop) : Prop :=
  ∃ t, exec i s = .next t ∧ (flag → readReg 0xF t = 0x01) ∧ (¬flag → readReg 0xF t = 0x00) ∧
    (x ≠ 0xF → readReg x t = b) ∧ t.pc = s.pc + 2 ∧ OnlyRegs [x, 0xF] s t ∧ OnlyParts [.pc] s t

/-- i completes at s by advancing pc by 4 if c holds and by 2 if not, and changes nothing else. -/
def SkipsIf (i : Instr) (s : State) (c : Prop) : Prop :=
  ∃ t, exec i s = .next t ∧ (c → t.pc = s.pc + 4) ∧ (¬c → t.pc = s.pc + 2) ∧
    OnlyRegs [] s t ∧ OnlyParts [.pc] s t

/-- i takes a fatal error at s: the next state differs from s in its status alone, which is Halted with the record
(kind, op, pc) (60_exceptions.md R96). -/
def TakesError (i : Instr) (s : State) (kind : ErrorKind) (op : Word) : Prop :=
  exec i s = .next { s with status := .halted { kind := kind, op := op, pc := s.pc } }

/-! ## Sprites -/

/-- Some sprite bit equal to 1 falls on the cell (cx, cy) when n rows from memory at I are drawn at (x0, y0)
(40_display.md R61). -/
def SpriteLights (s : State) (x0 y0 : Byte) (n : Nat) (cx : Fin 64) (cy : Fin 32) : Prop :=
  ∃ r c : Nat, r < n ∧ c < 8 ∧ cx.val = (x0.toNat + c) % 64 ∧ cy.val = (y0.toNat + r) % 32 ∧
    (memRead (s.idx + BitVec.ofNat 16 r) s).getLsbD (7 - c) = true

/-! ## Words with no handler -/

/-- The undefined sub-codes of classes 8, E and F (30_encoding.md R52), on the bits of the word. -/
def UndefinedWord (w : Word) : Prop :=
  (w.extractLsb' 12 4 = 0x8 ∧ w.extractLsb' 0 4 ∈ [0x8#4, 0x9#4, 0xA#4, 0xB#4, 0xC#4, 0xD#4, 0xF#4]) ∨
  (w.extractLsb' 12 4 = 0xE ∧ w.extractLsb' 0 8 ∉ [0x9E#8, 0xA1#8]) ∨
  (w.extractLsb' 12 4 = 0xF ∧
    w.extractLsb' 0 8 ∉ [0x07#8, 0x0A#8, 0x15#8, 0x18#8, 0x1E#8, 0x29#8, 0x33#8, 0x55#8, 0x65#8])

/-- The core has not taken a fatal error (10_state.md R24). -/
def NotHalted (s : State) : Prop := ∀ err, s.status ≠ .halted err

/-! ## The invariant -/

/-- What each kind of record says of the state it froze: the word of its opcode, and the condition that raised it
(60_exceptions.md R96 to R101). -/
def RecordExplained (s : State) : ErrorKind → Prop
  | .unknownInstruction => decodeWord (fetchWord s) = .error (.unknownInstruction (fetchWord s))
  | .unsupportedInstruction => ∃ nnn, decodeWord (fetchWord s) = .ok (.sys nnn)
  | .stackOverflow => s.sp.val = 16 ∧ ∃ nnn, decodeWord (fetchWord s) = .ok (.call nnn)
  | .stackUnderflow => s.sp.val = 0 ∧ ∃ ign, decodeWord (fetchWord s) = .ok (.ret ign)
  | .keyIndexOutOfRange =>
    ∃ x, readReg x s > 0x0F ∧
      (decodeWord (fetchWord s) = .ok (.skp x) ∨ decodeWord (fetchWord s) = .ok (.sknp x))
  | .loadOverflow => False

/-- The invariant that every step keeps: memory is in its canonical form (log entry 8), AwaitingKey still stands at an FX0A
(10_state.md R24), and a Halted record holds the pc and the word of the instruction that raised it, which explains it
(60_exceptions.md R96, R104). -/
def MachineInv (s : State) : Prop :=
  Memory.wf s.mem = true ∧
  (s.status = .awaitingKey → ∃ x, decodeWord (fetchWord s) = .ok (.ldVxK x)) ∧
  (∀ err, s.status = .halted err → err.pc = s.pc ∧ err.op = fetchWord s ∧ RecordExplained s err.kind)

end Sys2Proof.Machine
end

