-- ==== Sys2Proof/Certificates/Slice0/Obligations.lean ====
section
/-! DEFINITION. The statements for the provers. Each docstring names the rule of spec/ it formalises. An instruction's
statement gives its encoding, its completion with its result, and its frame, for every operand. -/

open Sys2Proof Sys2Proof.Machine

/-! ## Display (spec/40_display.md) -/

/-- R60: CLS, whatever bits 11:8 hold. -/
def Obligations.ClsClearsScreenAndRaisesDirty : Prop :=
  ∀ (ign : Nib) (s : State),
    decodeWord (0x0#4 ++ ign ++ 0xE0#8) = .ok (.cls ign) ∧
    ∃ t, exec (.cls ign) s = .next t ∧ (∀ (x : Fin 64) (y : Fin 32), fbGet x y t.fb = false) ∧ t.dirty = true ∧
      t.pc = s.pc + 2 ∧ OnlyRegs [] s t ∧ OnlyParts [.pc, .fb, .dirty] s t

/-- R61, with the wrap mod 64 and mod 32 of 92_eei_decisions.md D10 (the spec's own choice): DRW flips exactly the
cells a sprite bit lights, and VF says whether one of them was set. -/
def Obligations.DrwXorsSpriteAndFlagsCollision : Prop :=
  ∀ (x y n : Nib) (s : State),
    decodeWord (0xD#4 ++ x ++ y ++ n) = .ok (.drw x y n) ∧
    ∃ t, exec (.drw x y n) s = .next t ∧
      (∀ (cx : Fin 64) (cy : Fin 32), SpriteLights s (readReg x s) (readReg y s) n.toNat cx cy →
        fbGet cx cy t.fb = !fbGet cx cy s.fb) ∧
      (∀ (cx : Fin 64) (cy : Fin 32), ¬SpriteLights s (readReg x s) (readReg y s) n.toNat cx cy →
        fbGet cx cy t.fb = fbGet cx cy s.fb) ∧
      ((∃ (cx : Fin 64) (cy : Fin 32), SpriteLights s (readReg x s) (readReg y s) n.toNat cx cy ∧
        fbGet cx cy s.fb = true) → readReg 0xF t = 0x01) ∧
      ((¬∃ (cx : Fin 64) (cy : Fin 32), SpriteLights s (readReg x s) (readReg y s) n.toNat cx cy ∧
        fbGet cx cy s.fb = true) → readReg 0xF t = 0x00) ∧
      t.dirty = true ∧ t.pc = s.pc + 2 ∧ OnlyRegs [0xF] s t ∧ OnlyParts [.pc, .fb, .dirty] s t

/-- 40_display.md, corner cases of DRW (derived by the spec: XOR is self-inverse): the same sprite drawn twice at the
same place restores the framebuffer. The second draw collides exactly when some lit cell was clear before the first:
the spec's sentence says "if the sprite has any 1 bit", which its pseudocode contradicts where every lit cell was set
(log entry 16). X and Y are not F, since the first draw writes VF; DrwXorsSpriteAndFlagsCollision covers those forms.
-/
def Obligations.DrawingTwiceRestoresScreen : Prop :=
  ∀ (x y n : Nib) (s : State), x ≠ 0xF → y ≠ 0xF →
    ∃ t u, exec (.drw x y n) s = .next t ∧ exec (.drw x y n) t = .next u ∧
      (∀ (cx : Fin 64) (cy : Fin 32), fbGet cx cy u.fb = fbGet cx cy s.fb) ∧
      ((∃ (cx : Fin 64) (cy : Fin 32), SpriteLights s (readReg x s) (readReg y s) n.toNat cx cy ∧
        fbGet cx cy s.fb = false) → readReg 0xF u = 0x01) ∧
      ((¬∃ (cx : Fin 64) (cy : Fin 32), SpriteLights s (readReg x s) (readReg y s) n.toNat cx cy ∧
        fbGet cx cy s.fb = false) → readReg 0xF u = 0x00)

/-! ## Control transfer (spec/41_control_flow.md) -/

/-- R62, R99, with the overflow policy of 92_eei_decisions.md D8 (the spec's own choice). -/
def Obligations.CallPushesPcAndJumps : Prop :=
  ∀ (nnn : Lit12) (s : State),
    decodeWord (0x2#4 ++ nnn) = .ok (.call nnn) ∧
    (s.sp.val < 16 → ∃ t, exec (.call nnn) s = .next t ∧
      (∀ j : Fin 16, t.stack[j] = if j.val = s.sp.val then s.pc else s.stack[j]) ∧
      t.sp.val = s.sp.val + 1 ∧ t.pc.toNat = nnn.toNat ∧
      OnlyRegs [] s t ∧ OnlyParts [.pc, .stack, .sp] s t) ∧
    (s.sp.val = 16 → TakesError (.call nnn) s .stackOverflow (0x2#4 ++ nnn))

/-- R63, R100, with the underflow policy of 92_eei_decisions.md D8 and the kept entry of D9 (the spec's own choices);
the ignored bits 11:8 stand in the record. -/
def Obligations.RetPopsAndAdvances : Prop :=
  ∀ (ign : Nib) (s : State),
    decodeWord (0x0#4 ++ ign ++ 0xEE#8) = .ok (.ret ign) ∧
    (0 < s.sp.val → ∃ t, exec (.ret ign) s = .next t ∧
      (∀ j : Fin 16, j.val + 1 = s.sp.val → t.pc = s.stack[j] + 2) ∧
      t.sp.val + 1 = s.sp.val ∧ OnlyRegs [] s t ∧ OnlyParts [.pc, .sp] s t) ∧
    (s.sp.val = 0 → TakesError (.ret ign) s .stackUnderflow (0x0#4 ++ ign ++ 0xEE#8))

/-- 95_test_vectors.md E4: a return right after a call resumes at the word after the call, with the stack as deep as
before. -/
def Obligations.ReturnResumesAfterCall : Prop :=
  ∀ (nnn : Lit12) (ign : Nib) (s : State), s.sp.val < 16 →
    ∃ t u, exec (.call nnn) s = .next t ∧ exec (.ret ign) t = .next u ∧
      u.pc = s.pc + 2 ∧ u.sp = s.sp ∧ OnlyRegs [] s u ∧ OnlyParts [.pc, .stack] s u

/-- R64. -/
def Obligations.JpSetsPcToLiteral : Prop :=
  ∀ (nnn : Lit12) (s : State),
    decodeWord (0x1#4 ++ nnn) = .ok (.jp nnn) ∧
    ∃ t, exec (.jp nnn) s = .next t ∧ t.pc.toNat = nnn.toNat ∧ OnlyRegs [] s t ∧ OnlyParts [.pc] s t

/-- R65: the sum is exact, so it is not masked to 12 bits. -/
def Obligations.JpV0AddsV0ToLiteral : Prop :=
  ∀ (nnn : Lit12) (s : State),
    decodeWord (0xB#4 ++ nnn) = .ok (.jpV0 nnn) ∧
    ∃ t, exec (.jpV0 nnn) s = .next t ∧ t.pc.toNat = nnn.toNat + (readReg 0x0 s).toNat ∧
      OnlyRegs [] s t ∧ OnlyParts [.pc] s t

/-- R66. -/
def Obligations.SeImmSkipsOnEqual : Prop :=
  ∀ (x : Nib) (nn : Byte) (s : State),
    decodeWord (0x3#4 ++ x ++ nn) = .ok (.seImm x nn) ∧ SkipsIf (.seImm x nn) s (readReg x s = nn)

/-- R67. -/
def Obligations.SneImmSkipsOnUnequal : Prop :=
  ∀ (x : Nib) (nn : Byte) (s : State),
    decodeWord (0x4#4 ++ x ++ nn) = .ok (.sneImm x nn) ∧ SkipsIf (.sneImm x nn) s (readReg x s ≠ nn)

/-- R68; that the low nibble is ignored is 92_eei_decisions.md D3 (the spec's own choice). -/
def Obligations.SeRegSkipsOnEqual : Prop :=
  ∀ (x y ign : Nib) (s : State),
    decodeWord (0x5#4 ++ x ++ y ++ ign) = .ok (.seReg x y ign) ∧
    SkipsIf (.seReg x y ign) s (readReg x s = readReg y s)

/-- R69; that the low nibble is ignored is 92_eei_decisions.md D3 (the spec's own choice). -/
def Obligations.SneRegSkipsOnUnequal : Prop :=
  ∀ (x y ign : Nib) (s : State),
    decodeWord (0x9#4 ++ x ++ y ++ ign) = .ok (.sneReg x y ign) ∧
    SkipsIf (.sneReg x y ign) s (readReg x s ≠ readReg y s)

/-- 41_control_flow.md, SYS: it always takes UnsupportedInstruction, and every class-0 word whose low byte is neither
0xE0 nor 0xEE is a SYS. That nothing but the status changes, in every state, is 92_eei_decisions.md D14 (the spec's own
choice), and that the error is a next state is log entry 6. The first clause also covers the ill-formed terms with low
byte 0xE0 or 0xEE, which no word decodes to: what exec does with them is the model's (log entry 7). -/
def Obligations.SysTakesUnsupportedInstruction : Prop :=
  ∀ nnn : Lit12,
    (∀ s : State, TakesError (.sys nnn) s .unsupportedInstruction (0x0#4 ++ nnn)) ∧
    (nnn.extractLsb' 0 8 ≠ 0xE0#8 → nnn.extractLsb' 0 8 ≠ 0xEE#8 → decodeWord (0x0#4 ++ nnn) = .ok (.sys nnn))

/-! ## Register and ALU (spec/42_alu.md) -/

/-- R72. -/
def Obligations.LdImmWritesLiteral : Prop :=
  ∀ (x : Nib) (nn : Byte) (s : State),
    decodeWord (0x6#4 ++ x ++ nn) = .ok (.ldImm x nn) ∧ WritesReg (.ldImm x nn) s x nn

/-- R73: the sum mod 256, and no flag. -/
def Obligations.AddImmAddsWithoutFlag : Prop :=
  ∀ (x : Nib) (nn : Byte) (s : State),
    decodeWord (0x7#4 ++ x ++ nn) = .ok (.addImm x nn) ∧
    WritesReg (.addImm x nn) s x (BitVec.ofNat 8 (((readReg x s).toNat + nn.toNat) % 256))

/-- R74. -/
def Obligations.LdRegCopies : Prop :=
  ∀ (x y : Nib) (s : State),
    decodeWord (0x8#4 ++ x ++ y ++ 0x0#4) = .ok (.ldReg x y) ∧ WritesReg (.ldReg x y) s x (readReg y s)

/-- R75, R76, R77: the bitwise operations, with VF untouched unless it is the destination. -/
def Obligations.BitwiseOpsWriteResultWithoutFlag : Prop :=
  ∀ (x y : Nib) (s : State),
    decodeWord (0x8#4 ++ x ++ y ++ 0x1#4) = .ok (.orReg x y) ∧
    decodeWord (0x8#4 ++ x ++ y ++ 0x2#4) = .ok (.andReg x y) ∧
    decodeWord (0x8#4 ++ x ++ y ++ 0x3#4) = .ok (.xorReg x y) ∧
    WritesReg (.orReg x y) s x (readReg x s ||| readReg y s) ∧
    WritesReg (.andReg x y) s x (readReg x s &&& readReg y s) ∧
    WritesReg (.xorReg x y) s x (readReg x s ^^^ readReg y s)

/-- R78; with X = F, VF ends as the carry by 92_eei_decisions.md D7 (the spec's own choice). -/
def Obligations.AddRegSetsCarry : Prop :=
  ∀ (x y : Nib) (s : State),
    decodeWord (0x8#4 ++ x ++ y ++ 0x4#4) = .ok (.addReg x y) ∧
    WritesRegAndFlag (.addReg x y) s x
      (BitVec.ofNat 8 (((readReg x s).toNat + (readReg y s).toNat) % 256))
      ((readReg x s).toNat + (readReg y s).toNat > 255)

/-- R79; with X = F, VF ends as the flag by 92_eei_decisions.md D7 (the spec's own choice). -/
def Obligations.SubRegSetsNoBorrow : Prop :=
  ∀ (x y : Nib) (s : State),
    decodeWord (0x8#4 ++ x ++ y ++ 0x5#4) = .ok (.subReg x y) ∧
    WritesRegAndFlag (.subReg x y) s x
      (BitVec.ofNat 8 ((256 + (readReg x s).toNat - (readReg y s).toNat) % 256))
      (¬(readReg x s).toNat < (readReg y s).toNat)

/-- R80, whatever Y is; with X = F, VF ends as the bit by 92_eei_decisions.md D7 (the spec's own choice). -/
def Obligations.ShrSetsBitShiftedOut : Prop :=
  ∀ (x y : Nib) (s : State),
    decodeWord (0x8#4 ++ x ++ y ++ 0x6#4) = .ok (.shr x y) ∧
    WritesRegAndFlag (.shr x y) s x (BitVec.ofNat 8 ((readReg x s).toNat / 2)) ((readReg x s).toNat % 2 = 1)

/-- R81; with X = F, VF ends as the flag by 92_eei_decisions.md D7 (the spec's own choice). -/
def Obligations.SubnRegSetsNoBorrow : Prop :=
  ∀ (x y : Nib) (s : State),
    decodeWord (0x8#4 ++ x ++ y ++ 0x7#4) = .ok (.subnReg x y) ∧
    WritesRegAndFlag (.subnReg x y) s x
      (BitVec.ofNat 8 ((256 + (readReg y s).toNat - (readReg x s).toNat) % 256))
      (¬(readReg y s).toNat < (readReg x s).toNat)

/-- R82, whatever Y is; with X = F, VF ends as the bit by 92_eei_decisions.md D7 (the spec's own choice). -/
def Obligations.ShlSetsBitShiftedOut : Prop :=
  ∀ (x y : Nib) (s : State),
    decodeWord (0x8#4 ++ x ++ y ++ 0xE#4) = .ok (.shl x y) ∧
    WritesRegAndFlag (.shl x y) s x (BitVec.ofNat 8 ((readReg x s).toNat * 2 % 256)) ((readReg x s).toNat ≥ 128)

/-- R83: the byte is whatever the free source gives next (92_eei_decisions.md D13; log entry 1), and the source moves
on. -/
def Obligations.RndMasksFreshByte : Prop :=
  ∀ (x : Nib) (nn : Byte) (s : State),
    decodeWord (0xC#4 ++ x ++ nn) = .ok (.rnd x nn) ∧
    ∃ t, exec (.rnd x nn) s = .next t ∧ readReg x t = (Config.randomByte s.rngDraws &&& nn) ∧
      t.rngDraws = s.rngDraws + 1 ∧ t.pc = s.pc + 2 ∧
      OnlyRegs [x] s t ∧ OnlyParts [.pc, .rngDraws] s t

/-! ## Index register and memory (spec/43_index_memory.md) -/

/-- R84. -/
def Obligations.LdISetsIndex : Prop :=
  ∀ (nnn : Lit12) (s : State),
    decodeWord (0xA#4 ++ nnn) = .ok (.ldI nnn) ∧
    ∃ t, exec (.ldI nnn) s = .next t ∧ t.idx.toNat = nnn.toNat ∧ t.pc = s.pc + 2 ∧
      OnlyRegs [] s t ∧ OnlyParts [.pc, .idx] s t

/-- R85: five times the whole byte, not its low nibble. -/
def Obligations.LdFPointsAtGlyph : Prop :=
  ∀ (x : Nib) (s : State),
    decodeWord (0xF#4 ++ x ++ 0x29#8) = .ok (.ldF x) ∧
    ∃ t, exec (.ldF x) s = .next t ∧ t.idx.toNat = (readReg x s).toNat * 5 ∧ t.pc = s.pc + 2 ∧
      OnlyRegs [] s t ∧ OnlyParts [.pc, .idx] s t

/-- R86: the three decimal digits at I, I + 1 and I + 2, and every byte elsewhere as before. -/
def Obligations.LdBStoresDecimalDigits : Prop :=
  ∀ (x : Nib) (s : State),
    decodeWord (0xF#4 ++ x ++ 0x33#8) = .ok (.ldB x) ∧
    ∃ t, exec (.ldB x) s = .next t ∧
      (memRead (indexed 0 s) t).toNat = (readReg x s).toNat / 100 ∧
      (memRead (indexed 1 s) t).toNat = (readReg x s).toNat / 10 % 10 ∧
      (memRead (indexed 2 s) t).toNat = (readReg x s).toNat % 10 ∧
      (∀ a : Word, (∀ k < 3, cellOf a ≠ cellOf (indexed k s)) → memRead a t = memRead a s) ∧
      t.pc = s.pc + 2 ∧ OnlyRegs [] s t ∧ OnlyParts [.pc, .mem] s t

/-- R87: mod 2^16, not masked to 12 bits (92_eei_decisions.md D5, the spec's own choice), and no flag. -/
def Obligations.AddIAddsToIndexWithoutFlag : Prop :=
  ∀ (x : Nib) (s : State),
    decodeWord (0xF#4 ++ x ++ 0x1E#8) = .ok (.addI x) ∧
    ∃ t, exec (.addI x) s = .next t ∧ t.idx.toNat = (s.idx.toNat + (readReg x s).toNat) % 65536 ∧
      t.pc = s.pc + 2 ∧ OnlyRegs [] s t ∧ OnlyParts [.pc, .idx] s t

/-- R88: V0 to VX at I + 0 to I + X, and every byte elsewhere as before; I unchanged. -/
def Obligations.SaveRegsStoresBlock : Prop :=
  ∀ (x : Nib) (s : State),
    decodeWord (0xF#4 ++ x ++ 0x55#8) = .ok (.saveRegs x) ∧
    ∃ t, exec (.saveRegs x) s = .next t ∧
      (∀ r : Nib, r ≤ x → memRead (indexed r.toNat s) t = readReg r s) ∧
      (∀ a : Word, (∀ k ≤ x.toNat, cellOf a ≠ cellOf (indexed k s)) → memRead a t = memRead a s) ∧
      t.pc = s.pc + 2 ∧ OnlyRegs [] s t ∧ OnlyParts [.pc, .mem] s t

/-- R89: V0 to VX from I + 0 to I + X, and every other register as before; I unchanged. -/
def Obligations.LoadRegsReadsBlock : Prop :=
  ∀ (x : Nib) (s : State),
    decodeWord (0xF#4 ++ x ++ 0x65#8) = .ok (.loadRegs x) ∧
    ∃ t, exec (.loadRegs x) s = .next t ∧
      (∀ r : Nib, r ≤ x → readReg r t = memRead (indexed r.toNat s) s) ∧
      (∀ r : Nib, ¬r ≤ x → readReg r t = readReg r s) ∧
      t.pc = s.pc + 2 ∧ OnlyParts [.pc] s t

/-- 95_test_vectors.md E6: a restore gives back what a save stored, from any state that has the same I and the same
memory, whatever else happened between. -/
def Obligations.LoadAfterSaveRestores : Prop :=
  ∀ (x : Nib) (s : State), ∃ t, exec (.saveRegs x) s = .next t ∧
    ∀ u : State, u.idx = s.idx → (∀ a : Word, memRead a u = memRead a t) →
      ∃ w, exec (.loadRegs x) u = .next w ∧ (∀ r : Nib, r ≤ x → readReg r w = readReg r s) ∧ w.idx = s.idx

/-! ## Keys and timers (spec/44_timers_keys.md) -/

/-- R90, R101, with the range policy of 92_eei_decisions.md D11 (the spec's own choice). -/
def Obligations.SkpSkipsOnKeyDown : Prop :=
  ∀ (x : Nib) (s : State),
    decodeWord (0xE#4 ++ x ++ 0x9E#8) = .ok (.skp x) ∧
    ((readReg x s).toNat ≤ 0x0F → SkipsIf (.skp x) s (keyDown (BitVec.ofNat 4 (readReg x s).toNat) s = true)) ∧
    ((readReg x s).toNat > 0x0F → TakesError (.skp x) s .keyIndexOutOfRange (0xE#4 ++ x ++ 0x9E#8))

/-- R91, R101, with the range policy of 92_eei_decisions.md D11 (the spec's own choice). -/
def Obligations.SknpSkipsOnKeyUp : Prop :=
  ∀ (x : Nib) (s : State),
    decodeWord (0xE#4 ++ x ++ 0xA1#8) = .ok (.sknp x) ∧
    ((readReg x s).toNat ≤ 0x0F → SkipsIf (.sknp x) s (keyDown (BitVec.ofNat 4 (readReg x s).toNat) s = false)) ∧
    ((readReg x s).toNat > 0x0F → TakesError (.sknp x) s .keyIndexOutOfRange (0xE#4 ++ x ++ 0xA1#8))

/-- R92. -/
def Obligations.LdVxDtReadsDelayTimer : Prop :=
  ∀ (x : Nib) (s : State),
    decodeWord (0xF#4 ++ x ++ 0x07#8) = .ok (.ldVxDt x) ∧ WritesReg (.ldVxDt x) s x s.dt

/-- R93, R94: the timer writes. -/
def Obligations.TimerWritesCopyRegister : Prop :=
  ∀ (x : Nib) (s : State),
    decodeWord (0xF#4 ++ x ++ 0x15#8) = .ok (.ldDtVx x) ∧
    decodeWord (0xF#4 ++ x ++ 0x18#8) = .ok (.ldStVx x) ∧
    (∃ t, exec (.ldDtVx x) s = .next t ∧ t.dt = readReg x s ∧ t.pc = s.pc + 2 ∧
      OnlyRegs [] s t ∧ OnlyParts [.pc, .dt] s t) ∧
    (∃ t, exec (.ldStVx x) s = .next t ∧ t.st = readReg x s ∧ t.pc = s.pc + 2 ∧
      OnlyRegs [] s t ∧ OnlyParts [.pc, .st] s t)

/-- R95: with no key down only Status changes; with some key down V[X] gets the index of one that is down, a free
choice (92_eei_decisions.md D12; log entry 2). -/
def Obligations.LdVxKWaitsForKey : Prop :=
  ∀ (x : Nib) (s : State),
    decodeWord (0xF#4 ++ x ++ 0x0A#8) = .ok (.ldVxK x) ∧
    ((∀ k : Nib, keyDown k s = false) → exec (.ldVxK x) s = .next { s with status := .awaitingKey }) ∧
    ((∃ k : Nib, keyDown k s = true) → ∃ t k, exec (.ldVxK x) s = .next t ∧
      keyDown k s = true ∧ (readReg x t).toNat = k.toNat ∧ t.status = .running ∧ t.pc = s.pc + 2 ∧
      OnlyRegs [x] s t ∧ OnlyParts [.pc, .status, .keyDraws] s t)

/-! ## Encoding and fetch (spec/30_encoding.md) -/

/-- R57: the decoder reads every word the encoder writes, every operand at every value. -/
def Obligations.DecodeReadsEncode : Prop :=
  ∀ i : Instr, wellFormed i = true → decodeWord (encode i) = .ok i

/-- R57, the other direction: an instruction the decoder answers is well formed, and the word is its encoding, so no
two words share an instruction. -/
def Obligations.EncodeWritesDecode : Prop :=
  ∀ (w : Word) (i : Instr), decodeWord w = .ok i → wellFormed i = true ∧ encode i = w

/-- R52 (derived by the spec): the words with no handler are exactly these. -/
def Obligations.UndecodedWordsAreUndefined : Prop :=
  ∀ w : Word, (∃ e, decodeWord w = .error e) ↔ UndefinedWord w

/-- R57: one word of each dispatch shape, from the vectors of 95_test_vectors.md. -/
def Obligations.SampleWordsDecode : Prop :=
  decodeWord 0x0123 = .ok (.sys 0x123) ∧ decodeWord 0x01E0 = .ok (.cls 0x1) ∧ decodeWord 0x0FEE = .ok (.ret 0xF) ∧
  decodeWord 0x2789 = .ok (.call 0x789) ∧ decodeWord 0x3342 = .ok (.seImm 0x3 0x42) ∧
  decodeWord 0x5121 = .ok (.seReg 0x1 0x2 0x1) ∧ decodeWord 0x812E = .ok (.shl 0x1 0x2) ∧
  decodeWord 0xBFFF = .ok (.jpV0 0xFFF) ∧ decodeWord 0xD012 = .ok (.drw 0x0 0x1 0x2) ∧
  decodeWord 0xE49E = .ok (.skp 0x4) ∧ decodeWord 0xF30A = .ok (.ldVxK 0x3) ∧
  decodeWord 0xF655 = .ok (.saveRegs 0x6) ∧ decodeWord 0x8008 = .error (.unknownInstruction 0x8008)

/-- R48: big-endian, pc + 1 formed as a u16, each address reduced mod 4096. -/
def Obligations.FetchReadsBigEndianWord : Prop :=
  ∀ s : State, (fetchWord s).toNat =
    256 * (Memory.read s.mem (s.pc.toNat % 4096)).toNat +
      (Memory.read s.mem ((s.pc.toNat + 1) % 65536 % 4096)).toNat

/-! ## Cycles, steps and fatal errors (spec/30_encoding.md, spec/60_exceptions.md) -/

/-- R55: a step runs the decoded instruction, and then what the timer clock and the host do before the next cycle (log
entry 3). -/
def Obligations.StepRunsDecodedInstruction : Prop :=
  ∀ (s : State) (i : Instr), NotHalted s → decodeWord (fetchWord s) = .ok i →
    step s = match exec i s with
      | .next t => .next (betweenCycles t)
      | .fault r => .fault r
      | .refused r => .refused r

/-- R97: a word with no handler halts the core with its record when it is executed, and changes nothing else. -/
def Obligations.UndefinedWordHaltsWithRecord : Prop :=
  ∀ s : State, NotHalted s → UndefinedWord (fetchWord s) →
    step s = .next { s with
      status := .halted { kind := .unknownInstruction, op := fetchWord s, pc := s.pc } }

/-- 30_encoding.md, section 2: no cycle runs when the status is Halted. That the step then answers the fault halted,
with the record of the status, is the model's form (log entry 6). -/
def Obligations.HaltedRunsNoCycle : Prop :=
  ∀ (s : State) (err : ErrorRecord), s.status = .halted err → step s = .fault (.halted err)

/-- From 30_encoding.md R47, R52 and R55: every state that is not Halted has a next state. -/
def Obligations.EveryRunningStateSteps : Prop :=
  ∀ s : State, NotHalted s → ∃ t, step s = .next t

/-- R96, R104 (92_eei_decisions.md D14): an instruction that takes a fatal error changes nothing but the status, and
the record holds its word and its pc. -/
def Obligations.FatalErrorsChangeOnlyStatus : Prop :=
  ∀ (i : Instr) (s t : State) (err : ErrorRecord), NotHalted s → exec i s = .next t → t.status = .halted err →
    t = { s with status := .halted err } ∧ err.op = encode i ∧ err.pc = s.pc

/-- R96's table, R103: an instruction takes a fatal error exactly on the table's conditions, and of the table's kind.
-/
def Obligations.FatalErrorsAreExactlyTheTable : Prop :=
  ∀ (i : Instr) (s t : State), NotHalted s → exec i s = .next t → ∀ kind : ErrorKind,
    (∃ err, t.status = .halted err ∧ err.kind = kind) ↔
      (kind = .unsupportedInstruction ∧ ∃ nnn, i = .sys nnn) ∨
      (kind = .stackOverflow ∧ s.sp.val = 16 ∧ ∃ nnn, i = .call nnn) ∨
      (kind = .stackUnderflow ∧ s.sp.val = 0 ∧ ∃ ign, i = .ret ign) ∨
      (kind = .keyIndexOutOfRange ∧ ∃ x, (readReg x s).toNat > 0x0F ∧ (i = .skp x ∨ i = .sknp x))

/-- The invariant of Sys2Proof/Safety.lean, kept by every step from every state that has it. Its clause on the
canonical form of memory is the model's own (log entry 8); its clause on Halted records rests on 92_eei_decisions.md
D14 and D15 (the spec's own choices; log entry 6). -/
def Obligations.StepKeepsInvariant : Prop :=
  ∀ s t : State, MachineInv s → step s = .next t → MachineInv t

/-- The invariant holds at reset; its clause on the canonical form of memory is the model's own (log entry 8). -/
def Obligations.ResetHasInvariant : Prop := MachineInv State.reset

/-! ## Who writes what (spec/10_state.md) -/

/-- R13: VF changes only by the six flag writers, or by an instruction whose destination field selects VF. -/
def Obligations.FlagRegisterHasOnlyItsWriters : Prop :=
  ∀ (i : Instr) (s t : State), exec i s = .next t → readReg 0xF t ≠ readReg 0xF s →
    (∃ x y, i = .addReg x y ∨ i = .subReg x y ∨ i = .shr x y ∨ i = .subnReg x y ∨ i = .shl x y) ∨
    (∃ x y n, i = .drw x y n) ∨
    (∃ nn, i = .ldImm 0xF nn ∨ i = .addImm 0xF nn ∨ i = .rnd 0xF nn) ∨
    (∃ y, i = .ldReg 0xF y ∨ i = .orReg 0xF y ∨ i = .andReg 0xF y ∨ i = .xorReg 0xF y) ∨
    i = .ldVxDt 0xF ∨ i = .ldVxK 0xF ∨ i = .loadRegs 0xF

/-- 10_state.md section 11, rows Mem, I, Stack, SP, DT, ST (R15 to R20, 20_memory.md R32): each changes only by the
instructions the table names as its writers. -/
def Obligations.StoredPartsHaveOnlyTheirWriters : Prop :=
  ∀ (i : Instr) (s t : State), exec i s = .next t →
    (SamePart s t .mem ∨ ∃ x, i = .ldB x ∨ i = .saveRegs x) ∧
    (SamePart s t .idx ∨ (∃ nnn, i = .ldI nnn) ∨ ∃ x, i = .addI x ∨ i = .ldF x) ∧
    (SamePart s t .stack ∨ ∃ nnn, i = .call nnn) ∧
    (SamePart s t .sp ∨ (∃ nnn, i = .call nnn) ∨ ∃ ign, i = .ret ign) ∧
    (SamePart s t .dt ∨ ∃ x, i = .ldDtVx x) ∧
    (SamePart s t .st ∨ ∃ x, i = .ldStVx x)

/-- 10_state.md section 11, rows FB, Dirty, Key (R21, R22, R23): the framebuffer changes only by CLS and DRW, which
alone raise Dirty; no instruction clears Dirty; no instruction writes a key. -/
def Obligations.EdgePartsHaveOnlyTheirWriters : Prop :=
  ∀ (i : Instr) (s t : State), exec i s = .next t →
    (SamePart s t .fb ∨ (∃ ign, i = .cls ign) ∨ ∃ x y n, i = .drw x y n) ∧
    (t.dirty = true ↔ s.dirty = true ∨ (∃ ign, i = .cls ign) ∨ ∃ x y n, i = .drw x y n) ∧
    SamePart s t .keys

/-- R19, R22: no instruction reads ST or Dirty, so two runs of an instruction that differ in them alone end differing
in them alone. -/
def Obligations.SoundTimerAndDirtyAreUnread : Prop :=
  ∀ (i : Instr) (s : State) (b : Byte) (d : Bool),
    ∃ t u, exec i s = .next t ∧ exec i { s with st := b, dirty := d } = .next u ∧
      u = { t with st := u.st, dirty := u.dirty }

/-! ## The timer clock, the host, the load and reset (spec/60_exceptions.md, spec/70_reset_and_hazards.md) -/

/-- R108. -/
def Obligations.TickDecrementsNonzeroTimers : Prop :=
  ∀ s : State,
    (s.dt.toNat > 0 → (tick s).dt.toNat = s.dt.toNat - 1) ∧ (s.dt = 0x00 → (tick s).dt = 0x00) ∧
    (s.st.toNat > 0 → (tick s).st.toNat = s.st.toNat - 1) ∧ (s.st = 0x00 → (tick s).st = 0x00) ∧
    OnlyRegs [] s (tick s) ∧ OnlyParts [.dt, .st] s (tick s)

/-- From R108 and R109: n ticks of a gap are n ticks one after another, and each timer stops at 0. -/
def Obligations.TicksStopAtZero : Prop :=
  ∀ (n : Nat) (s : State),
    ticks n s = Nat.iterate tick n s ∧ (ticks n s).dt.toNat = s.dt.toNat - n ∧ (ticks n s).st.toNat = s.st.toNat - n

/-- From R105, R109, R113 and R115: between two cycles only the timers, the key flags and Dirty may change (and the
model's own schedule); the last write to a key stands and a key not written keeps its state; after Halted nothing
changes. -/
def Obligations.GapTouchesOnlyTimersKeysDirty : Prop :=
  ∀ s : State,
    OnlyRegs [] s (betweenCycles s) ∧ OnlyParts [.dt, .st, .keys, .dirty, .host] s (betweenCycles s) ∧
    ((∃ err, s.status = .halted err) → betweenCycles s = s) ∧
    (NotHalted s →
      (betweenCycles s).dt.toNat = s.dt.toNat - (nextGap s).ticks ∧
      (betweenCycles s).st.toNat = s.st.toNat - (nextGap s).ticks ∧
      ((betweenCycles s).dirty = true ↔ s.dirty = true ∧ (nextGap s).dirtyConsumed = false) ∧
      (∀ k : Nib, (∀ w ∈ (nextGap s).keyWrites, w.1 ≠ k) → keyDown k (betweenCycles s) = keyDown k s) ∧
      (∀ (ws ws' : List (Nib × Bool)) (k : Nib) (b : Bool), (nextGap s).keyWrites = ws ++ (k, b) :: ws' →
        (∀ w ∈ ws', w.1 ≠ k) → keyDown k (betweenCycles s) = b))

/-- R122, R102: the program load. -/
def Obligations.LoadCopiesImageOrOverflows : Prop :=
  ∀ (image : List Byte) (s : State),
    (image.length ≤ 3584 → ∃ t, loadImage image s = .next t ∧
      (∀ (j : Nat) (h : j < image.length), memRead (BitVec.ofNat 16 (0x200 + j)) t = image[j]) ∧
      (∀ a : Word, (∀ j < image.length, cellOf a ≠ 0x200 + j) → memRead a t = memRead a s) ∧
      OnlyRegs [] s t ∧ OnlyParts [.mem] s t) ∧
    (image.length > 3584 → loadImage image s = .fault (.loadOverflow image.length))

/-- R120, R121; SP, the stack, FB, Dirty, Key and Status are 92_eei_decisions.md D19 and the font bytes D20 (the spec's
own choices). -/
def Obligations.ResetGivesListedValues : Prop :=
  (∀ r : Nib, readReg r State.reset = 0x00) ∧ State.reset.pc = 0x200 ∧ State.reset.idx = 0x0000 ∧
  (∀ j : Fin 16, State.reset.stack[j] = 0x0000) ∧ State.reset.sp.val = 0 ∧
  State.reset.dt = 0x00 ∧ State.reset.st = 0x00 ∧
  (List.range 80).map (fun a => memRead (BitVec.ofNat 16 a) State.reset) =
    [0xF0, 0x90, 0x90, 0x90, 0xF0, 0x20, 0x60, 0x20, 0x20, 0x70, 0xF0, 0x10, 0xF0, 0x80, 0xF0,
     0xF0, 0x10, 0xF0, 0x10, 0xF0, 0x90, 0x90, 0xF0, 0x10, 0x10, 0xF0, 0x80, 0xF0, 0x10, 0xF0,
     0xF0, 0x80, 0xF0, 0x90, 0xF0, 0xF0, 0x10, 0x20, 0x40, 0x40, 0xF0, 0x90, 0xF0, 0x90, 0xF0,
     0xF0, 0x90, 0xF0, 0x10, 0xF0, 0xF0, 0x90, 0xF0, 0x90, 0x90, 0xE0, 0x90, 0xE0, 0x90, 0xE0,
     0xF0, 0x80, 0x80, 0x80, 0xF0, 0xE0, 0x90, 0x90, 0x90, 0xE0, 0xF0, 0x80, 0xF0, 0x80, 0xF0,
     0xF0, 0x80, 0xF0, 0x80, 0x80] ∧
  (∀ a : Word, 80 ≤ a.toNat → a.toNat < 4096 → memRead a State.reset = 0x00) ∧
  (∀ (x : Fin 64) (y : Fin 32), fbGet x y State.reset.fb = false) ∧ State.reset.dirty = false ∧
  (∀ k : Nib, keyDown k State.reset = false) ∧ State.reset.status = .running

/-- R129, item 3 (92_eei_decisions.md D24, the spec's own choice): at a jump to its own address a cycle leaves the
whole state as it is. -/
def Obligations.SelfJumpKeepsState : Prop :=
  ∀ (nnn : Lit12) (s : State), fetchWord s = 0x1#4 ++ nnn → s.pc.toNat = nnn.toNat → cycle s = .next s

/-- Log entry 8: two memories in canonical form that read the same at every cell are the same data. -/
def Obligations.CanonicalMemoriesAreEqualData : Prop :=
  ∀ m n : Memory, Memory.wf m = true → Memory.wf n = true →
    (∀ a : Nat, a < 4096 → Memory.read m a = Memory.read n a) → m = n
end

