-- ==== Sys2Proof/Laws/Decode.lean ====
section
/-! SUPPORT. The decoded view of a word put together from its fields: what a proof about encodings cites instead of
reasoning about bits. -/

namespace Sys2Proof

/-! ## Words of four nibbles -/

theorem decodeView_wordXYN (c x y n : Nib) :
    decodeView (wordXYN c x y n) = { op := wordXYN c x y n, x := x, y := y, nnn := x ++ y ++ n, n := n } := by
  simp only [decodeView, View.mk.injEq, true_and]
  refine ⟨?_, ?_, ?_, ?_⟩ <;> (ext i hi; simp [wordXYN]; grind)

theorem opClass_wordXYN (c x y n : Nib) : opClass (decodeView (wordXYN c x y n)) = c := by
  ext i hi; simp [opClass, decodeView, wordXYN]; grind

/-! ## Words of two nibbles and a byte -/

theorem decodeView_wordXNN (c x : Nib) (nn : Byte) :
    decodeView (wordXNN c x nn) =
      { op := wordXNN c x nn, x := x, y := nn.extractLsb' 4 4, nnn := x ++ nn, n := nn.extractLsb' 0 4 } := by
  simp only [decodeView, View.mk.injEq, true_and]
  refine ⟨?_, ?_, ?_, ?_⟩ <;> (ext i hi; simp [wordXNN]; grind)

theorem opClass_wordXNN (c x : Nib) (nn : Byte) : opClass (decodeView (wordXNN c x nn)) = c := by
  ext i hi; simp [opClass, decodeView, wordXNN]; grind

theorem lowByte_wordXNN (c x : Nib) (nn : Byte) : lowByte (decodeView (wordXNN c x nn)) = nn := by
  ext i hi; simp [lowByte, decodeView, wordXNN]; grind

/-! ## Words of a nibble and a 12-bit literal -/

theorem decodeView_wordNNN (c : Nib) (nnn : Lit12) :
    decodeView (wordNNN c nnn) =
      { op := wordNNN c nnn, x := nnn.extractLsb' 8 4, y := nnn.extractLsb' 4 4, nnn := nnn,
        n := nnn.extractLsb' 0 4 } := by
  simp only [decodeView, View.mk.injEq, true_and]
  refine ⟨?_, ?_, ?_, ?_⟩ <;> (ext i hi; simp [wordNNN]; grind)

theorem opClass_wordNNN (c : Nib) (nnn : Lit12) : opClass (decodeView (wordNNN c nnn)) = c := by
  ext i hi; simp [opClass, decodeView, wordNNN]; grind

theorem lowByte_wordNNN (c : Nib) (nnn : Lit12) : lowByte (decodeView (wordNNN c nnn)) = nnn.setWidth 8 := by
  ext i hi; simp [lowByte, decodeView, wordNNN]; grind

/-! ## A word is its fields -/

theorem wordNNN_fields (w : Word) : wordNNN (opClass (decodeView w)) (decodeView w).nnn = w := by
  ext i hi; simp [opClass, decodeView, wordNNN]; grind

theorem wordXNN_fields (w : Word) :
    wordXNN (opClass (decodeView w)) (decodeView w).x (lowByte (decodeView w)) = w := by
  ext i hi; simp [opClass, lowByte, decodeView, wordXNN]; grind

theorem wordXYN_fields (w : Word) :
    wordXYN (opClass (decodeView w)) (decodeView w).x (decodeView w).y (decodeView w).n = w := by
  ext i hi; simp [opClass, decodeView, wordXYN]; grind

/-- The bytes of a word assemble to it. -/
theorem assembleWord_bytes (w : Word) : assembleWord (w.extractLsb' 8 8) (w.extractLsb' 0 8) = w := by
  ext i hi; simp [assembleWord]; grind

end Sys2Proof
end

