-- ==== Sys2Proof/Laws/Memory.lean ====
section
/-! SUPPORT. What a memory write does to every read, and that every memory operation keeps the canonical form. -/

namespace Sys2Proof.Machine

/-! ## Reads after writes -/

theorem Memory.read_erase_same (m : Memory) (a : Nat) : Memory.read (Memory.erase m a) a = Memory.initial a := by
  induction m with
  | nil => rfl
  | cons c rest ih =>
    obtain ⟨k, b⟩ := c
    by_cases h : k = a
    · simpa [Memory.erase, h] using ih
    · have h' : ¬ a = k := fun e => h e.symm
      simpa [Memory.erase, h, Memory.read, h'] using ih

theorem Memory.read_erase_other (m : Memory) {a c : Nat} (h : c ≠ a) :
    Memory.read (Memory.erase m a) c = Memory.read m c := by
  induction m with
  | nil => rfl
  | cons e rest ih =>
    obtain ⟨k, b⟩ := e
    by_cases hk : k = a
    · have : ¬ c = k := by omega
      simpa [Memory.erase, hk, Memory.read, h] using ih
    · by_cases hc : c = k
      · simp [Memory.erase, hk, Memory.read, hc]
      · simpa [Memory.erase, hk, Memory.read, hc] using ih

theorem Memory.read_insert_other (m : Memory) {a c : Nat} (b : Byte) (h : c ≠ a) :
    Memory.read (Memory.insert a b m) c = Memory.read m c := by
  induction m with
  | nil => simp [Memory.insert, Memory.read, h]
  | cons e rest ih =>
    obtain ⟨k, d⟩ := e
    by_cases hk : a < k
    · simp [Memory.insert, hk, Memory.read, h]
    · simp [Memory.insert, hk, Memory.read, ih]

theorem Memory.read_insert_erase_same (m : Memory) (a : Nat) (b : Byte) :
    Memory.read (Memory.insert a b (Memory.erase m a)) a = b := by
  induction m with
  | nil => simp [Memory.erase, Memory.insert, Memory.read]
  | cons e rest ih =>
    obtain ⟨k, d⟩ := e
    by_cases hk : k = a
    · simpa [Memory.erase, hk] using ih
    · have h' : ¬ a = k := fun e => hk e.symm
      by_cases hl : a < k
      · simp [Memory.erase, hk, Memory.insert, hl, Memory.read]
      · simpa [Memory.erase, hk, Memory.insert, hl, Memory.read, h'] using ih

/-- Plain storage (20_memory.md R33): the byte written, and every other cell as it was. -/
theorem Memory.read_write (m : Memory) (a c : Nat) (b : Byte) :
    Memory.read (Memory.write m a b) c = if c = a then b else Memory.read m c := by
  unfold Memory.write
  by_cases hc : c = a
  · subst hc
    by_cases hb : b = Memory.initial c
    · simp [hb, Memory.read_erase_same]
    · simp [hb, Memory.read_insert_erase_same]
  · by_cases hb : b = Memory.initial a
    · simp [hb, hc, Memory.read_erase_other m hc]
    · simp [hb, hc, Memory.read_insert_other _ b hc, Memory.read_erase_other m hc]

/-- The same at the level of addresses, which are reduced mod 4096 (20_memory.md R29). -/
theorem memRead_memWrite (a c : Word) (b : Byte) (s : State) :
    memRead c (memWrite a b s) = if cellOf c = cellOf a then b else memRead c s := by
  simp [memRead, memWrite, Memory.read_write]

theorem cellOf_lt (a : Word) : cellOf a < Config.memorySize := Nat.mod_lt _ (by decide)

/-! ## The canonical form -/

theorem Memory.wfFrom_mono {lo lo' : Nat} (h : lo' ≤ lo) {m : Memory} (hm : Memory.wfFrom lo m = true) :
    Memory.wfFrom lo' m = true := by
  cases m with
  | nil => rfl
  | cons e rest =>
    obtain ⟨k, b⟩ := e
    simp only [Memory.wfFrom, Bool.and_eq_true, decide_eq_true_eq] at hm ⊢
    exact ⟨⟨⟨by omega, hm.1.1.2⟩, hm.1.2⟩, hm.2⟩

theorem Memory.wfFrom_erase {m : Memory} (a : Nat) {lo : Nat} (hm : Memory.wfFrom lo m = true) :
    Memory.wfFrom lo (Memory.erase m a) = true := by
  induction m generalizing lo with
  | nil => rfl
  | cons e rest ih =>
    obtain ⟨k, b⟩ := e
    simp only [Memory.wfFrom, Bool.and_eq_true, decide_eq_true_eq] at hm
    by_cases hk : k = a
    · simpa [Memory.erase, hk] using Memory.wfFrom_mono (by omega) (ih hm.2)
    · have := ih hm.2
      simp only [Memory.erase] at this
      simp [Memory.erase, hk, Memory.wfFrom, hm.1.1.1, hm.1.1.2, hm.1.2, this]

theorem Memory.wfFrom_insert_erase {m : Memory} {a : Nat} {b : Byte} (ha : a < Config.memorySize)
    (hb : b ≠ Memory.initial a) {lo : Nat} (hl : lo ≤ a) (hm : Memory.wfFrom lo m = true) :
    Memory.wfFrom lo (Memory.insert a b (Memory.erase m a)) = true := by
  induction m generalizing lo with
  | nil => simp [Memory.erase, Memory.insert, Memory.wfFrom, ha, hb, hl]
  | cons e rest ih =>
    obtain ⟨k, d⟩ := e
    have hm' := hm
    simp only [Memory.wfFrom, Bool.and_eq_true, decide_eq_true_eq] at hm
    by_cases hk : k = a
    · have := ih hl (Memory.wfFrom_mono (by omega) hm.2)
      simpa [Memory.erase, hk] using this
    · by_cases hlt : a < k
      · have he := Memory.wfFrom_erase a hm.2
        simp only [Memory.erase] at he
        simp [Memory.erase, hk, Memory.insert, hlt, Memory.wfFrom, ha, hb, hl, hm.1.1.2, hm.1.2, he]
      · have := ih (lo := k + 1) (by omega) hm.2
        simp only [Memory.erase] at this
        simp [Memory.erase, hk, Memory.insert, hlt, Memory.wfFrom, hm.1.1.1, hm.1.1.2, hm.1.2, this]

/-- A write below 4096 keeps the canonical form. -/
theorem Memory.wf_write {m : Memory} {a : Nat} (b : Byte) (ha : a < Config.memorySize) (hm : Memory.wf m = true) :
    Memory.wf (Memory.write m a b) = true := by
  unfold Memory.write Memory.wf
  split
  · exact Memory.wfFrom_erase a hm
  · next hb => exact Memory.wfFrom_insert_erase ha hb (Nat.zero_le _) hm

theorem wf_memWrite (a : Word) (b : Byte) {s : State} (hs : Memory.wf s.mem = true) :
    Memory.wf (memWrite a b s).mem = true := Memory.wf_write b (cellOf_lt a) hs

theorem wf_placeWord (b c : Byte) {s : State} (hs : Memory.wf s.mem = true) :
    Memory.wf (placeWord b c s).mem = true := wf_memWrite _ _ (wf_memWrite _ _ hs)

/-- The program load keeps the canonical form while the image fits. -/
theorem wf_storeImage {image : List Byte} {a : Nat} (h : a + image.length ≤ Config.memorySize) {m : Memory}
    (hm : Memory.wf m = true) : Memory.wf (storeImage a image m) = true := by
  induction image generalizing a m with
  | nil => exact hm
  | cons b rest ih =>
    simp only [List.length_cons] at h
    exact ih (by omega) (Memory.wf_write b (by omega) hm)

theorem wf_reset : Memory.wf State.reset.mem = true := rfl

end Sys2Proof.Machine
end

