-- ==== Sys2Proof/Laws/State.lean ====
section
/-! SUPPORT. What each named update leaves in each field of State and in each reader, all true by unfolding. -/

namespace Sys2Proof.Machine

/-! ## writeReg -/

@[simp] theorem writeReg_v (r : Nib) (b : Byte) (s : State) : (writeReg r b s).v = s.v.set r.toNat b r.toNat_lt := rfl
@[simp] theorem writeReg_pc (r : Nib) (b : Byte) (s : State) : (writeReg r b s).pc = s.pc := rfl
@[simp] theorem writeReg_idx (r : Nib) (b : Byte) (s : State) : (writeReg r b s).idx = s.idx := rfl
@[simp] theorem writeReg_stack (r : Nib) (b : Byte) (s : State) : (writeReg r b s).stack = s.stack := rfl
@[simp] theorem writeReg_sp (r : Nib) (b : Byte) (s : State) : (writeReg r b s).sp = s.sp := rfl
@[simp] theorem writeReg_dt (r : Nib) (b : Byte) (s : State) : (writeReg r b s).dt = s.dt := rfl
@[simp] theorem writeReg_st (r : Nib) (b : Byte) (s : State) : (writeReg r b s).st = s.st := rfl
@[simp] theorem writeReg_mem (r : Nib) (b : Byte) (s : State) : (writeReg r b s).mem = s.mem := rfl
@[simp] theorem writeReg_fb (r : Nib) (b : Byte) (s : State) : (writeReg r b s).fb = s.fb := rfl
@[simp] theorem writeReg_dirty (r : Nib) (b : Byte) (s : State) : (writeReg r b s).dirty = s.dirty := rfl
@[simp] theorem writeReg_keys (r : Nib) (b : Byte) (s : State) : (writeReg r b s).keys = s.keys := rfl
@[simp] theorem writeReg_status (r : Nib) (b : Byte) (s : State) : (writeReg r b s).status = s.status := rfl
@[simp] theorem writeReg_rngDraws (r : Nib) (b : Byte) (s : State) : (writeReg r b s).rngDraws = s.rngDraws := rfl
@[simp] theorem writeReg_keyDraws (r : Nib) (b : Byte) (s : State) : (writeReg r b s).keyDraws = s.keyDraws := rfl
@[simp] theorem writeReg_gaps (r : Nib) (b : Byte) (s : State) : (writeReg r b s).gaps = s.gaps := rfl
@[simp] theorem writeReg_schedule (r : Nib) (b : Byte) (s : State) : (writeReg r b s).schedule = s.schedule := rfl
@[simp] theorem memRead_writeReg (q : Word) (r : Nib) (b : Byte) (s : State) : memRead q (writeReg r b s) = memRead q s := rfl
@[simp] theorem keyDown_writeReg (q : Nib) (r : Nib) (b : Byte) (s : State) : keyDown q (writeReg r b s) = keyDown q s := rfl

/-! ## setIdx -/

@[simp] theorem setIdx_v (w : Word) (s : State) : (setIdx w s).v = s.v := rfl
@[simp] theorem setIdx_pc (w : Word) (s : State) : (setIdx w s).pc = s.pc := rfl
@[simp] theorem setIdx_idx (w : Word) (s : State) : (setIdx w s).idx = w := rfl
@[simp] theorem setIdx_stack (w : Word) (s : State) : (setIdx w s).stack = s.stack := rfl
@[simp] theorem setIdx_sp (w : Word) (s : State) : (setIdx w s).sp = s.sp := rfl
@[simp] theorem setIdx_dt (w : Word) (s : State) : (setIdx w s).dt = s.dt := rfl
@[simp] theorem setIdx_st (w : Word) (s : State) : (setIdx w s).st = s.st := rfl
@[simp] theorem setIdx_mem (w : Word) (s : State) : (setIdx w s).mem = s.mem := rfl
@[simp] theorem setIdx_fb (w : Word) (s : State) : (setIdx w s).fb = s.fb := rfl
@[simp] theorem setIdx_dirty (w : Word) (s : State) : (setIdx w s).dirty = s.dirty := rfl
@[simp] theorem setIdx_keys (w : Word) (s : State) : (setIdx w s).keys = s.keys := rfl
@[simp] theorem setIdx_status (w : Word) (s : State) : (setIdx w s).status = s.status := rfl
@[simp] theorem setIdx_rngDraws (w : Word) (s : State) : (setIdx w s).rngDraws = s.rngDraws := rfl
@[simp] theorem setIdx_keyDraws (w : Word) (s : State) : (setIdx w s).keyDraws = s.keyDraws := rfl
@[simp] theorem setIdx_gaps (w : Word) (s : State) : (setIdx w s).gaps = s.gaps := rfl
@[simp] theorem setIdx_schedule (w : Word) (s : State) : (setIdx w s).schedule = s.schedule := rfl
@[simp] theorem readReg_setIdx (q : Nib) (w : Word) (s : State) : readReg q (setIdx w s) = readReg q s := rfl
@[simp] theorem memRead_setIdx (q : Word) (w : Word) (s : State) : memRead q (setIdx w s) = memRead q s := rfl
@[simp] theorem keyDown_setIdx (q : Nib) (w : Word) (s : State) : keyDown q (setIdx w s) = keyDown q s := rfl

/-! ## setDt -/

@[simp] theorem setDt_v (b : Byte) (s : State) : (setDt b s).v = s.v := rfl
@[simp] theorem setDt_pc (b : Byte) (s : State) : (setDt b s).pc = s.pc := rfl
@[simp] theorem setDt_idx (b : Byte) (s : State) : (setDt b s).idx = s.idx := rfl
@[simp] theorem setDt_stack (b : Byte) (s : State) : (setDt b s).stack = s.stack := rfl
@[simp] theorem setDt_sp (b : Byte) (s : State) : (setDt b s).sp = s.sp := rfl
@[simp] theorem setDt_dt (b : Byte) (s : State) : (setDt b s).dt = b := rfl
@[simp] theorem setDt_st (b : Byte) (s : State) : (setDt b s).st = s.st := rfl
@[simp] theorem setDt_mem (b : Byte) (s : State) : (setDt b s).mem = s.mem := rfl
@[simp] theorem setDt_fb (b : Byte) (s : State) : (setDt b s).fb = s.fb := rfl
@[simp] theorem setDt_dirty (b : Byte) (s : State) : (setDt b s).dirty = s.dirty := rfl
@[simp] theorem setDt_keys (b : Byte) (s : State) : (setDt b s).keys = s.keys := rfl
@[simp] theorem setDt_status (b : Byte) (s : State) : (setDt b s).status = s.status := rfl
@[simp] theorem setDt_rngDraws (b : Byte) (s : State) : (setDt b s).rngDraws = s.rngDraws := rfl
@[simp] theorem setDt_keyDraws (b : Byte) (s : State) : (setDt b s).keyDraws = s.keyDraws := rfl
@[simp] theorem setDt_gaps (b : Byte) (s : State) : (setDt b s).gaps = s.gaps := rfl
@[simp] theorem setDt_schedule (b : Byte) (s : State) : (setDt b s).schedule = s.schedule := rfl
@[simp] theorem readReg_setDt (q : Nib) (b : Byte) (s : State) : readReg q (setDt b s) = readReg q s := rfl
@[simp] theorem memRead_setDt (q : Word) (b : Byte) (s : State) : memRead q (setDt b s) = memRead q s := rfl
@[simp] theorem keyDown_setDt (q : Nib) (b : Byte) (s : State) : keyDown q (setDt b s) = keyDown q s := rfl

/-! ## setSt -/

@[simp] theorem setSt_v (b : Byte) (s : State) : (setSt b s).v = s.v := rfl
@[simp] theorem setSt_pc (b : Byte) (s : State) : (setSt b s).pc = s.pc := rfl
@[simp] theorem setSt_idx (b : Byte) (s : State) : (setSt b s).idx = s.idx := rfl
@[simp] theorem setSt_stack (b : Byte) (s : State) : (setSt b s).stack = s.stack := rfl
@[simp] theorem setSt_sp (b : Byte) (s : State) : (setSt b s).sp = s.sp := rfl
@[simp] theorem setSt_dt (b : Byte) (s : State) : (setSt b s).dt = s.dt := rfl
@[simp] theorem setSt_st (b : Byte) (s : State) : (setSt b s).st = b := rfl
@[simp] theorem setSt_mem (b : Byte) (s : State) : (setSt b s).mem = s.mem := rfl
@[simp] theorem setSt_fb (b : Byte) (s : State) : (setSt b s).fb = s.fb := rfl
@[simp] theorem setSt_dirty (b : Byte) (s : State) : (setSt b s).dirty = s.dirty := rfl
@[simp] theorem setSt_keys (b : Byte) (s : State) : (setSt b s).keys = s.keys := rfl
@[simp] theorem setSt_status (b : Byte) (s : State) : (setSt b s).status = s.status := rfl
@[simp] theorem setSt_rngDraws (b : Byte) (s : State) : (setSt b s).rngDraws = s.rngDraws := rfl
@[simp] theorem setSt_keyDraws (b : Byte) (s : State) : (setSt b s).keyDraws = s.keyDraws := rfl
@[simp] theorem setSt_gaps (b : Byte) (s : State) : (setSt b s).gaps = s.gaps := rfl
@[simp] theorem setSt_schedule (b : Byte) (s : State) : (setSt b s).schedule = s.schedule := rfl
@[simp] theorem readReg_setSt (q : Nib) (b : Byte) (s : State) : readReg q (setSt b s) = readReg q s := rfl
@[simp] theorem memRead_setSt (q : Word) (b : Byte) (s : State) : memRead q (setSt b s) = memRead q s := rfl
@[simp] theorem keyDown_setSt (q : Nib) (b : Byte) (s : State) : keyDown q (setSt b s) = keyDown q s := rfl

/-! ## setStatus -/

@[simp] theorem setStatus_v (x : Status) (s : State) : (setStatus x s).v = s.v := rfl
@[simp] theorem setStatus_pc (x : Status) (s : State) : (setStatus x s).pc = s.pc := rfl
@[simp] theorem setStatus_idx (x : Status) (s : State) : (setStatus x s).idx = s.idx := rfl
@[simp] theorem setStatus_stack (x : Status) (s : State) : (setStatus x s).stack = s.stack := rfl
@[simp] theorem setStatus_sp (x : Status) (s : State) : (setStatus x s).sp = s.sp := rfl
@[simp] theorem setStatus_dt (x : Status) (s : State) : (setStatus x s).dt = s.dt := rfl
@[simp] theorem setStatus_st (x : Status) (s : State) : (setStatus x s).st = s.st := rfl
@[simp] theorem setStatus_mem (x : Status) (s : State) : (setStatus x s).mem = s.mem := rfl
@[simp] theorem setStatus_fb (x : Status) (s : State) : (setStatus x s).fb = s.fb := rfl
@[simp] theorem setStatus_dirty (x : Status) (s : State) : (setStatus x s).dirty = s.dirty := rfl
@[simp] theorem setStatus_keys (x : Status) (s : State) : (setStatus x s).keys = s.keys := rfl
@[simp] theorem setStatus_status (x : Status) (s : State) : (setStatus x s).status = x := rfl
@[simp] theorem setStatus_rngDraws (x : Status) (s : State) : (setStatus x s).rngDraws = s.rngDraws := rfl
@[simp] theorem setStatus_keyDraws (x : Status) (s : State) : (setStatus x s).keyDraws = s.keyDraws := rfl
@[simp] theorem setStatus_gaps (x : Status) (s : State) : (setStatus x s).gaps = s.gaps := rfl
@[simp] theorem setStatus_schedule (x : Status) (s : State) : (setStatus x s).schedule = s.schedule := rfl
@[simp] theorem readReg_setStatus (q : Nib) (x : Status) (s : State) : readReg q (setStatus x s) = readReg q s := rfl
@[simp] theorem memRead_setStatus (q : Word) (x : Status) (s : State) : memRead q (setStatus x s) = memRead q s := rfl
@[simp] theorem keyDown_setStatus (q : Nib) (x : Status) (s : State) : keyDown q (setStatus x s) = keyDown q s := rfl

/-! ## jumpTo -/

@[simp] theorem jumpTo_v (t : Word) (s : State) : (jumpTo t s).v = s.v := rfl
@[simp] theorem jumpTo_pc (t : Word) (s : State) : (jumpTo t s).pc = t := rfl
@[simp] theorem jumpTo_idx (t : Word) (s : State) : (jumpTo t s).idx = s.idx := rfl
@[simp] theorem jumpTo_stack (t : Word) (s : State) : (jumpTo t s).stack = s.stack := rfl
@[simp] theorem jumpTo_sp (t : Word) (s : State) : (jumpTo t s).sp = s.sp := rfl
@[simp] theorem jumpTo_dt (t : Word) (s : State) : (jumpTo t s).dt = s.dt := rfl
@[simp] theorem jumpTo_st (t : Word) (s : State) : (jumpTo t s).st = s.st := rfl
@[simp] theorem jumpTo_mem (t : Word) (s : State) : (jumpTo t s).mem = s.mem := rfl
@[simp] theorem jumpTo_fb (t : Word) (s : State) : (jumpTo t s).fb = s.fb := rfl
@[simp] theorem jumpTo_dirty (t : Word) (s : State) : (jumpTo t s).dirty = s.dirty := rfl
@[simp] theorem jumpTo_keys (t : Word) (s : State) : (jumpTo t s).keys = s.keys := rfl
@[simp] theorem jumpTo_status (t : Word) (s : State) : (jumpTo t s).status = s.status := rfl
@[simp] theorem jumpTo_rngDraws (t : Word) (s : State) : (jumpTo t s).rngDraws = s.rngDraws := rfl
@[simp] theorem jumpTo_keyDraws (t : Word) (s : State) : (jumpTo t s).keyDraws = s.keyDraws := rfl
@[simp] theorem jumpTo_gaps (t : Word) (s : State) : (jumpTo t s).gaps = s.gaps := rfl
@[simp] theorem jumpTo_schedule (t : Word) (s : State) : (jumpTo t s).schedule = s.schedule := rfl
@[simp] theorem readReg_jumpTo (q : Nib) (t : Word) (s : State) : readReg q (jumpTo t s) = readReg q s := rfl
@[simp] theorem memRead_jumpTo (q : Word) (t : Word) (s : State) : memRead q (jumpTo t s) = memRead q s := rfl
@[simp] theorem keyDown_jumpTo (q : Nib) (t : Word) (s : State) : keyDown q (jumpTo t s) = keyDown q s := rfl

/-! ## nextPc -/

@[simp] theorem nextPc_v (s : State) : (nextPc s).v = s.v := rfl
@[simp] theorem nextPc_pc (s : State) : (nextPc s).pc = s.pc + 2 := rfl
@[simp] theorem nextPc_idx (s : State) : (nextPc s).idx = s.idx := rfl
@[simp] theorem nextPc_stack (s : State) : (nextPc s).stack = s.stack := rfl
@[simp] theorem nextPc_sp (s : State) : (nextPc s).sp = s.sp := rfl
@[simp] theorem nextPc_dt (s : State) : (nextPc s).dt = s.dt := rfl
@[simp] theorem nextPc_st (s : State) : (nextPc s).st = s.st := rfl
@[simp] theorem nextPc_mem (s : State) : (nextPc s).mem = s.mem := rfl
@[simp] theorem nextPc_fb (s : State) : (nextPc s).fb = s.fb := rfl
@[simp] theorem nextPc_dirty (s : State) : (nextPc s).dirty = s.dirty := rfl
@[simp] theorem nextPc_keys (s : State) : (nextPc s).keys = s.keys := rfl
@[simp] theorem nextPc_status (s : State) : (nextPc s).status = s.status := rfl
@[simp] theorem nextPc_rngDraws (s : State) : (nextPc s).rngDraws = s.rngDraws := rfl
@[simp] theorem nextPc_keyDraws (s : State) : (nextPc s).keyDraws = s.keyDraws := rfl
@[simp] theorem nextPc_gaps (s : State) : (nextPc s).gaps = s.gaps := rfl
@[simp] theorem nextPc_schedule (s : State) : (nextPc s).schedule = s.schedule := rfl
@[simp] theorem readReg_nextPc (q : Nib) (s : State) : readReg q (nextPc s) = readReg q s := rfl
@[simp] theorem memRead_nextPc (q : Word) (s : State) : memRead q (nextPc s) = memRead q s := rfl
@[simp] theorem keyDown_nextPc (q : Nib) (s : State) : keyDown q (nextPc s) = keyDown q s := rfl

/-! ## skipIf -/

@[simp] theorem skipIf_v (c : Bool) (s : State) : (skipIf c s).v = s.v := rfl
@[simp] theorem skipIf_pc (c : Bool) (s : State) : (skipIf c s).pc = if c then s.pc + 4 else s.pc + 2 := rfl
@[simp] theorem skipIf_idx (c : Bool) (s : State) : (skipIf c s).idx = s.idx := rfl
@[simp] theorem skipIf_stack (c : Bool) (s : State) : (skipIf c s).stack = s.stack := rfl
@[simp] theorem skipIf_sp (c : Bool) (s : State) : (skipIf c s).sp = s.sp := rfl
@[simp] theorem skipIf_dt (c : Bool) (s : State) : (skipIf c s).dt = s.dt := rfl
@[simp] theorem skipIf_st (c : Bool) (s : State) : (skipIf c s).st = s.st := rfl
@[simp] theorem skipIf_mem (c : Bool) (s : State) : (skipIf c s).mem = s.mem := rfl
@[simp] theorem skipIf_fb (c : Bool) (s : State) : (skipIf c s).fb = s.fb := rfl
@[simp] theorem skipIf_dirty (c : Bool) (s : State) : (skipIf c s).dirty = s.dirty := rfl
@[simp] theorem skipIf_keys (c : Bool) (s : State) : (skipIf c s).keys = s.keys := rfl
@[simp] theorem skipIf_status (c : Bool) (s : State) : (skipIf c s).status = s.status := rfl
@[simp] theorem skipIf_rngDraws (c : Bool) (s : State) : (skipIf c s).rngDraws = s.rngDraws := rfl
@[simp] theorem skipIf_keyDraws (c : Bool) (s : State) : (skipIf c s).keyDraws = s.keyDraws := rfl
@[simp] theorem skipIf_gaps (c : Bool) (s : State) : (skipIf c s).gaps = s.gaps := rfl
@[simp] theorem skipIf_schedule (c : Bool) (s : State) : (skipIf c s).schedule = s.schedule := rfl
@[simp] theorem readReg_skipIf (q : Nib) (c : Bool) (s : State) : readReg q (skipIf c s) = readReg q s := rfl
@[simp] theorem memRead_skipIf (q : Word) (c : Bool) (s : State) : memRead q (skipIf c s) = memRead q s := rfl
@[simp] theorem keyDown_skipIf (q : Nib) (c : Bool) (s : State) : keyDown q (skipIf c s) = keyDown q s := rfl

/-! ## memWrite -/

@[simp] theorem memWrite_v (a : Word) (b : Byte) (s : State) : (memWrite a b s).v = s.v := rfl
@[simp] theorem memWrite_pc (a : Word) (b : Byte) (s : State) : (memWrite a b s).pc = s.pc := rfl
@[simp] theorem memWrite_idx (a : Word) (b : Byte) (s : State) : (memWrite a b s).idx = s.idx := rfl
@[simp] theorem memWrite_stack (a : Word) (b : Byte) (s : State) : (memWrite a b s).stack = s.stack := rfl
@[simp] theorem memWrite_sp (a : Word) (b : Byte) (s : State) : (memWrite a b s).sp = s.sp := rfl
@[simp] theorem memWrite_dt (a : Word) (b : Byte) (s : State) : (memWrite a b s).dt = s.dt := rfl
@[simp] theorem memWrite_st (a : Word) (b : Byte) (s : State) : (memWrite a b s).st = s.st := rfl
@[simp] theorem memWrite_mem (a : Word) (b : Byte) (s : State) : (memWrite a b s).mem = Memory.write s.mem (cellOf a) b := rfl
@[simp] theorem memWrite_fb (a : Word) (b : Byte) (s : State) : (memWrite a b s).fb = s.fb := rfl
@[simp] theorem memWrite_dirty (a : Word) (b : Byte) (s : State) : (memWrite a b s).dirty = s.dirty := rfl
@[simp] theorem memWrite_keys (a : Word) (b : Byte) (s : State) : (memWrite a b s).keys = s.keys := rfl
@[simp] theorem memWrite_status (a : Word) (b : Byte) (s : State) : (memWrite a b s).status = s.status := rfl
@[simp] theorem memWrite_rngDraws (a : Word) (b : Byte) (s : State) : (memWrite a b s).rngDraws = s.rngDraws := rfl
@[simp] theorem memWrite_keyDraws (a : Word) (b : Byte) (s : State) : (memWrite a b s).keyDraws = s.keyDraws := rfl
@[simp] theorem memWrite_gaps (a : Word) (b : Byte) (s : State) : (memWrite a b s).gaps = s.gaps := rfl
@[simp] theorem memWrite_schedule (a : Word) (b : Byte) (s : State) : (memWrite a b s).schedule = s.schedule := rfl
@[simp] theorem readReg_memWrite (q : Nib) (a : Word) (b : Byte) (s : State) : readReg q (memWrite a b s) = readReg q s := rfl
@[simp] theorem keyDown_memWrite (q : Nib) (a : Word) (b : Byte) (s : State) : keyDown q (memWrite a b s) = keyDown q s := rfl

/-! ## setFb -/

@[simp] theorem setFb_v (f : Screen) (s : State) : (setFb f s).v = s.v := rfl
@[simp] theorem setFb_pc (f : Screen) (s : State) : (setFb f s).pc = s.pc := rfl
@[simp] theorem setFb_idx (f : Screen) (s : State) : (setFb f s).idx = s.idx := rfl
@[simp] theorem setFb_stack (f : Screen) (s : State) : (setFb f s).stack = s.stack := rfl
@[simp] theorem setFb_sp (f : Screen) (s : State) : (setFb f s).sp = s.sp := rfl
@[simp] theorem setFb_dt (f : Screen) (s : State) : (setFb f s).dt = s.dt := rfl
@[simp] theorem setFb_st (f : Screen) (s : State) : (setFb f s).st = s.st := rfl
@[simp] theorem setFb_mem (f : Screen) (s : State) : (setFb f s).mem = s.mem := rfl
@[simp] theorem setFb_fb (f : Screen) (s : State) : (setFb f s).fb = f := rfl
@[simp] theorem setFb_dirty (f : Screen) (s : State) : (setFb f s).dirty = s.dirty := rfl
@[simp] theorem setFb_keys (f : Screen) (s : State) : (setFb f s).keys = s.keys := rfl
@[simp] theorem setFb_status (f : Screen) (s : State) : (setFb f s).status = s.status := rfl
@[simp] theorem setFb_rngDraws (f : Screen) (s : State) : (setFb f s).rngDraws = s.rngDraws := rfl
@[simp] theorem setFb_keyDraws (f : Screen) (s : State) : (setFb f s).keyDraws = s.keyDraws := rfl
@[simp] theorem setFb_gaps (f : Screen) (s : State) : (setFb f s).gaps = s.gaps := rfl
@[simp] theorem setFb_schedule (f : Screen) (s : State) : (setFb f s).schedule = s.schedule := rfl
@[simp] theorem readReg_setFb (q : Nib) (f : Screen) (s : State) : readReg q (setFb f s) = readReg q s := rfl
@[simp] theorem memRead_setFb (q : Word) (f : Screen) (s : State) : memRead q (setFb f s) = memRead q s := rfl
@[simp] theorem keyDown_setFb (q : Nib) (f : Screen) (s : State) : keyDown q (setFb f s) = keyDown q s := rfl

/-! ## raiseDirty -/

@[simp] theorem raiseDirty_v (s : State) : (raiseDirty s).v = s.v := rfl
@[simp] theorem raiseDirty_pc (s : State) : (raiseDirty s).pc = s.pc := rfl
@[simp] theorem raiseDirty_idx (s : State) : (raiseDirty s).idx = s.idx := rfl
@[simp] theorem raiseDirty_stack (s : State) : (raiseDirty s).stack = s.stack := rfl
@[simp] theorem raiseDirty_sp (s : State) : (raiseDirty s).sp = s.sp := rfl
@[simp] theorem raiseDirty_dt (s : State) : (raiseDirty s).dt = s.dt := rfl
@[simp] theorem raiseDirty_st (s : State) : (raiseDirty s).st = s.st := rfl
@[simp] theorem raiseDirty_mem (s : State) : (raiseDirty s).mem = s.mem := rfl
@[simp] theorem raiseDirty_fb (s : State) : (raiseDirty s).fb = s.fb := rfl
@[simp] theorem raiseDirty_dirty (s : State) : (raiseDirty s).dirty = true := rfl
@[simp] theorem raiseDirty_keys (s : State) : (raiseDirty s).keys = s.keys := rfl
@[simp] theorem raiseDirty_status (s : State) : (raiseDirty s).status = s.status := rfl
@[simp] theorem raiseDirty_rngDraws (s : State) : (raiseDirty s).rngDraws = s.rngDraws := rfl
@[simp] theorem raiseDirty_keyDraws (s : State) : (raiseDirty s).keyDraws = s.keyDraws := rfl
@[simp] theorem raiseDirty_gaps (s : State) : (raiseDirty s).gaps = s.gaps := rfl
@[simp] theorem raiseDirty_schedule (s : State) : (raiseDirty s).schedule = s.schedule := rfl
@[simp] theorem readReg_raiseDirty (q : Nib) (s : State) : readReg q (raiseDirty s) = readReg q s := rfl
@[simp] theorem memRead_raiseDirty (q : Word) (s : State) : memRead q (raiseDirty s) = memRead q s := rfl
@[simp] theorem keyDown_raiseDirty (q : Nib) (s : State) : keyDown q (raiseDirty s) = keyDown q s := rfl

/-! ## dropRandom -/

@[simp] theorem dropRandom_v (s : State) : (dropRandom s).v = s.v := rfl
@[simp] theorem dropRandom_pc (s : State) : (dropRandom s).pc = s.pc := rfl
@[simp] theorem dropRandom_idx (s : State) : (dropRandom s).idx = s.idx := rfl
@[simp] theorem dropRandom_stack (s : State) : (dropRandom s).stack = s.stack := rfl
@[simp] theorem dropRandom_sp (s : State) : (dropRandom s).sp = s.sp := rfl
@[simp] theorem dropRandom_dt (s : State) : (dropRandom s).dt = s.dt := rfl
@[simp] theorem dropRandom_st (s : State) : (dropRandom s).st = s.st := rfl
@[simp] theorem dropRandom_mem (s : State) : (dropRandom s).mem = s.mem := rfl
@[simp] theorem dropRandom_fb (s : State) : (dropRandom s).fb = s.fb := rfl
@[simp] theorem dropRandom_dirty (s : State) : (dropRandom s).dirty = s.dirty := rfl
@[simp] theorem dropRandom_keys (s : State) : (dropRandom s).keys = s.keys := rfl
@[simp] theorem dropRandom_status (s : State) : (dropRandom s).status = s.status := rfl
@[simp] theorem dropRandom_rngDraws (s : State) : (dropRandom s).rngDraws = s.rngDraws + 1 := rfl
@[simp] theorem dropRandom_keyDraws (s : State) : (dropRandom s).keyDraws = s.keyDraws := rfl
@[simp] theorem dropRandom_gaps (s : State) : (dropRandom s).gaps = s.gaps := rfl
@[simp] theorem dropRandom_schedule (s : State) : (dropRandom s).schedule = s.schedule := rfl
@[simp] theorem readReg_dropRandom (q : Nib) (s : State) : readReg q (dropRandom s) = readReg q s := rfl
@[simp] theorem memRead_dropRandom (q : Word) (s : State) : memRead q (dropRandom s) = memRead q s := rfl
@[simp] theorem keyDown_dropRandom (q : Nib) (s : State) : keyDown q (dropRandom s) = keyDown q s := rfl

/-! ## dropChoice -/

@[simp] theorem dropChoice_v (s : State) : (dropChoice s).v = s.v := rfl
@[simp] theorem dropChoice_pc (s : State) : (dropChoice s).pc = s.pc := rfl
@[simp] theorem dropChoice_idx (s : State) : (dropChoice s).idx = s.idx := rfl
@[simp] theorem dropChoice_stack (s : State) : (dropChoice s).stack = s.stack := rfl
@[simp] theorem dropChoice_sp (s : State) : (dropChoice s).sp = s.sp := rfl
@[simp] theorem dropChoice_dt (s : State) : (dropChoice s).dt = s.dt := rfl
@[simp] theorem dropChoice_st (s : State) : (dropChoice s).st = s.st := rfl
@[simp] theorem dropChoice_mem (s : State) : (dropChoice s).mem = s.mem := rfl
@[simp] theorem dropChoice_fb (s : State) : (dropChoice s).fb = s.fb := rfl
@[simp] theorem dropChoice_dirty (s : State) : (dropChoice s).dirty = s.dirty := rfl
@[simp] theorem dropChoice_keys (s : State) : (dropChoice s).keys = s.keys := rfl
@[simp] theorem dropChoice_status (s : State) : (dropChoice s).status = s.status := rfl
@[simp] theorem dropChoice_rngDraws (s : State) : (dropChoice s).rngDraws = s.rngDraws := rfl
@[simp] theorem dropChoice_keyDraws (s : State) : (dropChoice s).keyDraws = s.keyDraws + 1 := rfl
@[simp] theorem dropChoice_gaps (s : State) : (dropChoice s).gaps = s.gaps := rfl
@[simp] theorem dropChoice_schedule (s : State) : (dropChoice s).schedule = s.schedule := rfl
@[simp] theorem readReg_dropChoice (q : Nib) (s : State) : readReg q (dropChoice s) = readReg q s := rfl
@[simp] theorem memRead_dropChoice (q : Word) (s : State) : memRead q (dropChoice s) = memRead q s := rfl
@[simp] theorem keyDown_dropChoice (q : Nib) (s : State) : keyDown q (dropChoice s) = keyDown q s := rfl

/-! ## dropGap -/

@[simp] theorem dropGap_v (s : State) : (dropGap s).v = s.v := rfl
@[simp] theorem dropGap_pc (s : State) : (dropGap s).pc = s.pc := rfl
@[simp] theorem dropGap_idx (s : State) : (dropGap s).idx = s.idx := rfl
@[simp] theorem dropGap_stack (s : State) : (dropGap s).stack = s.stack := rfl
@[simp] theorem dropGap_sp (s : State) : (dropGap s).sp = s.sp := rfl
@[simp] theorem dropGap_dt (s : State) : (dropGap s).dt = s.dt := rfl
@[simp] theorem dropGap_st (s : State) : (dropGap s).st = s.st := rfl
@[simp] theorem dropGap_mem (s : State) : (dropGap s).mem = s.mem := rfl
@[simp] theorem dropGap_fb (s : State) : (dropGap s).fb = s.fb := rfl
@[simp] theorem dropGap_dirty (s : State) : (dropGap s).dirty = s.dirty := rfl
@[simp] theorem dropGap_keys (s : State) : (dropGap s).keys = s.keys := rfl
@[simp] theorem dropGap_status (s : State) : (dropGap s).status = s.status := rfl
@[simp] theorem dropGap_rngDraws (s : State) : (dropGap s).rngDraws = s.rngDraws := rfl
@[simp] theorem dropGap_keyDraws (s : State) : (dropGap s).keyDraws = s.keyDraws := rfl
@[simp] theorem dropGap_gaps (s : State) : (dropGap s).gaps = s.gaps + 1 := rfl
@[simp] theorem dropGap_schedule (s : State) : (dropGap s).schedule = s.schedule.tail := rfl
@[simp] theorem readReg_dropGap (q : Nib) (s : State) : readReg q (dropGap s) = readReg q s := rfl
@[simp] theorem memRead_dropGap (q : Word) (s : State) : memRead q (dropGap s) = memRead q s := rfl
@[simp] theorem keyDown_dropGap (q : Nib) (s : State) : keyDown q (dropGap s) = keyDown q s := rfl

/-! ## ticks -/

@[simp] theorem ticks_v (n : Nat) (s : State) : (ticks n s).v = s.v := rfl
@[simp] theorem ticks_pc (n : Nat) (s : State) : (ticks n s).pc = s.pc := rfl
@[simp] theorem ticks_idx (n : Nat) (s : State) : (ticks n s).idx = s.idx := rfl
@[simp] theorem ticks_stack (n : Nat) (s : State) : (ticks n s).stack = s.stack := rfl
@[simp] theorem ticks_sp (n : Nat) (s : State) : (ticks n s).sp = s.sp := rfl
@[simp] theorem ticks_dt (n : Nat) (s : State) : (ticks n s).dt = countDownBy n s.dt := rfl
@[simp] theorem ticks_st (n : Nat) (s : State) : (ticks n s).st = countDownBy n s.st := rfl
@[simp] theorem ticks_mem (n : Nat) (s : State) : (ticks n s).mem = s.mem := rfl
@[simp] theorem ticks_fb (n : Nat) (s : State) : (ticks n s).fb = s.fb := rfl
@[simp] theorem ticks_dirty (n : Nat) (s : State) : (ticks n s).dirty = s.dirty := rfl
@[simp] theorem ticks_keys (n : Nat) (s : State) : (ticks n s).keys = s.keys := rfl
@[simp] theorem ticks_status (n : Nat) (s : State) : (ticks n s).status = s.status := rfl
@[simp] theorem ticks_rngDraws (n : Nat) (s : State) : (ticks n s).rngDraws = s.rngDraws := rfl
@[simp] theorem ticks_keyDraws (n : Nat) (s : State) : (ticks n s).keyDraws = s.keyDraws := rfl
@[simp] theorem ticks_gaps (n : Nat) (s : State) : (ticks n s).gaps = s.gaps := rfl
@[simp] theorem ticks_schedule (n : Nat) (s : State) : (ticks n s).schedule = s.schedule := rfl
@[simp] theorem readReg_ticks (q : Nib) (n : Nat) (s : State) : readReg q (ticks n s) = readReg q s := rfl
@[simp] theorem memRead_ticks (q : Word) (n : Nat) (s : State) : memRead q (ticks n s) = memRead q s := rfl
@[simp] theorem keyDown_ticks (q : Nib) (n : Nat) (s : State) : keyDown q (ticks n s) = keyDown q s := rfl

/-! ## writeKeys -/

@[simp] theorem writeKeys_v (ws : List (Nib × Bool)) (s : State) : (writeKeys ws s).v = s.v := rfl
@[simp] theorem writeKeys_pc (ws : List (Nib × Bool)) (s : State) : (writeKeys ws s).pc = s.pc := rfl
@[simp] theorem writeKeys_idx (ws : List (Nib × Bool)) (s : State) : (writeKeys ws s).idx = s.idx := rfl
@[simp] theorem writeKeys_stack (ws : List (Nib × Bool)) (s : State) : (writeKeys ws s).stack = s.stack := rfl
@[simp] theorem writeKeys_sp (ws : List (Nib × Bool)) (s : State) : (writeKeys ws s).sp = s.sp := rfl
@[simp] theorem writeKeys_dt (ws : List (Nib × Bool)) (s : State) : (writeKeys ws s).dt = s.dt := rfl
@[simp] theorem writeKeys_st (ws : List (Nib × Bool)) (s : State) : (writeKeys ws s).st = s.st := rfl
@[simp] theorem writeKeys_mem (ws : List (Nib × Bool)) (s : State) : (writeKeys ws s).mem = s.mem := rfl
@[simp] theorem writeKeys_fb (ws : List (Nib × Bool)) (s : State) : (writeKeys ws s).fb = s.fb := rfl
@[simp] theorem writeKeys_dirty (ws : List (Nib × Bool)) (s : State) : (writeKeys ws s).dirty = s.dirty := rfl
@[simp] theorem writeKeys_keys (ws : List (Nib × Bool)) (s : State) : (writeKeys ws s).keys = ws.foldl putKey s.keys := rfl
@[simp] theorem writeKeys_status (ws : List (Nib × Bool)) (s : State) : (writeKeys ws s).status = s.status := rfl
@[simp] theorem writeKeys_rngDraws (ws : List (Nib × Bool)) (s : State) : (writeKeys ws s).rngDraws = s.rngDraws := rfl
@[simp] theorem writeKeys_keyDraws (ws : List (Nib × Bool)) (s : State) : (writeKeys ws s).keyDraws = s.keyDraws := rfl
@[simp] theorem writeKeys_gaps (ws : List (Nib × Bool)) (s : State) : (writeKeys ws s).gaps = s.gaps := rfl
@[simp] theorem writeKeys_schedule (ws : List (Nib × Bool)) (s : State) : (writeKeys ws s).schedule = s.schedule := rfl
@[simp] theorem readReg_writeKeys (q : Nib) (ws : List (Nib × Bool)) (s : State) : readReg q (writeKeys ws s) = readReg q s := rfl
@[simp] theorem memRead_writeKeys (q : Word) (ws : List (Nib × Bool)) (s : State) : memRead q (writeKeys ws s) = memRead q s := rfl

/-! ## consumeDirtyIf -/

@[simp] theorem consumeDirtyIf_v (c : Bool) (s : State) : (consumeDirtyIf c s).v = s.v := rfl
@[simp] theorem consumeDirtyIf_pc (c : Bool) (s : State) : (consumeDirtyIf c s).pc = s.pc := rfl
@[simp] theorem consumeDirtyIf_idx (c : Bool) (s : State) : (consumeDirtyIf c s).idx = s.idx := rfl
@[simp] theorem consumeDirtyIf_stack (c : Bool) (s : State) : (consumeDirtyIf c s).stack = s.stack := rfl
@[simp] theorem consumeDirtyIf_sp (c : Bool) (s : State) : (consumeDirtyIf c s).sp = s.sp := rfl
@[simp] theorem consumeDirtyIf_dt (c : Bool) (s : State) : (consumeDirtyIf c s).dt = s.dt := rfl
@[simp] theorem consumeDirtyIf_st (c : Bool) (s : State) : (consumeDirtyIf c s).st = s.st := rfl
@[simp] theorem consumeDirtyIf_mem (c : Bool) (s : State) : (consumeDirtyIf c s).mem = s.mem := rfl
@[simp] theorem consumeDirtyIf_fb (c : Bool) (s : State) : (consumeDirtyIf c s).fb = s.fb := rfl
@[simp] theorem consumeDirtyIf_dirty (c : Bool) (s : State) : (consumeDirtyIf c s).dirty = (s.dirty && !c) := rfl
@[simp] theorem consumeDirtyIf_keys (c : Bool) (s : State) : (consumeDirtyIf c s).keys = s.keys := rfl
@[simp] theorem consumeDirtyIf_status (c : Bool) (s : State) : (consumeDirtyIf c s).status = s.status := rfl
@[simp] theorem consumeDirtyIf_rngDraws (c : Bool) (s : State) : (consumeDirtyIf c s).rngDraws = s.rngDraws := rfl
@[simp] theorem consumeDirtyIf_keyDraws (c : Bool) (s : State) : (consumeDirtyIf c s).keyDraws = s.keyDraws := rfl
@[simp] theorem consumeDirtyIf_gaps (c : Bool) (s : State) : (consumeDirtyIf c s).gaps = s.gaps := rfl
@[simp] theorem consumeDirtyIf_schedule (c : Bool) (s : State) : (consumeDirtyIf c s).schedule = s.schedule := rfl
@[simp] theorem readReg_consumeDirtyIf (q : Nib) (c : Bool) (s : State) : readReg q (consumeDirtyIf c s) = readReg q s := rfl
@[simp] theorem memRead_consumeDirtyIf (q : Word) (c : Bool) (s : State) : memRead q (consumeDirtyIf c s) = memRead q s := rfl
@[simp] theorem keyDown_consumeDirtyIf (q : Nib) (c : Bool) (s : State) : keyDown q (consumeDirtyIf c s) = keyDown q s := rfl

/-! ## writeWithFlag -/

@[simp] theorem writeWithFlag_pc (x : Nib) (b : Byte) (f : Bool) (s : State) : (writeWithFlag x b f s).pc = s.pc := rfl
@[simp] theorem writeWithFlag_idx (x : Nib) (b : Byte) (f : Bool) (s : State) : (writeWithFlag x b f s).idx = s.idx := rfl
@[simp] theorem writeWithFlag_stack (x : Nib) (b : Byte) (f : Bool) (s : State) : (writeWithFlag x b f s).stack = s.stack := rfl
@[simp] theorem writeWithFlag_sp (x : Nib) (b : Byte) (f : Bool) (s : State) : (writeWithFlag x b f s).sp = s.sp := rfl
@[simp] theorem writeWithFlag_dt (x : Nib) (b : Byte) (f : Bool) (s : State) : (writeWithFlag x b f s).dt = s.dt := rfl
@[simp] theorem writeWithFlag_st (x : Nib) (b : Byte) (f : Bool) (s : State) : (writeWithFlag x b f s).st = s.st := rfl
@[simp] theorem writeWithFlag_mem (x : Nib) (b : Byte) (f : Bool) (s : State) : (writeWithFlag x b f s).mem = s.mem := rfl
@[simp] theorem writeWithFlag_fb (x : Nib) (b : Byte) (f : Bool) (s : State) : (writeWithFlag x b f s).fb = s.fb := rfl
@[simp] theorem writeWithFlag_dirty (x : Nib) (b : Byte) (f : Bool) (s : State) : (writeWithFlag x b f s).dirty = s.dirty := rfl
@[simp] theorem writeWithFlag_keys (x : Nib) (b : Byte) (f : Bool) (s : State) : (writeWithFlag x b f s).keys = s.keys := rfl
@[simp] theorem writeWithFlag_status (x : Nib) (b : Byte) (f : Bool) (s : State) : (writeWithFlag x b f s).status = s.status := rfl
@[simp] theorem writeWithFlag_rngDraws (x : Nib) (b : Byte) (f : Bool) (s : State) : (writeWithFlag x b f s).rngDraws = s.rngDraws := rfl
@[simp] theorem writeWithFlag_keyDraws (x : Nib) (b : Byte) (f : Bool) (s : State) : (writeWithFlag x b f s).keyDraws = s.keyDraws := rfl
@[simp] theorem writeWithFlag_gaps (x : Nib) (b : Byte) (f : Bool) (s : State) : (writeWithFlag x b f s).gaps = s.gaps := rfl
@[simp] theorem writeWithFlag_schedule (x : Nib) (b : Byte) (f : Bool) (s : State) : (writeWithFlag x b f s).schedule = s.schedule := rfl
@[simp] theorem memRead_writeWithFlag (q : Word) (x : Nib) (b : Byte) (f : Bool) (s : State) : memRead q (writeWithFlag x b f s) = memRead q s := rfl
@[simp] theorem keyDown_writeWithFlag (q : Nib) (x : Nib) (b : Byte) (f : Bool) (s : State) : keyDown q (writeWithFlag x b f s) = keyDown q s := rfl

end Sys2Proof.Machine
end

