-- ==== Sys2Proof/Laws/Ops.lean ====
section
/-! SUPPORT. One lemma for each shared operation, saying everything it can do. -/

namespace Sys2Proof.Machine

/-! ## Registers and flags -/

/-- A register write changes its own register alone. -/
theorem readReg_writeReg (r q : Nib) (b : Byte) (s : State) :
    readReg q (writeReg r b s) = if q = r then b else readReg q s := by
  simp only [readReg, writeReg, Vector.getElem_set]
  by_cases h : r = q
  · simp [h]
  · have : r.toNat ≠ q.toNat := fun e => h (BitVec.eq_of_toNat_eq e)
    simp [this, Ne.symm h]

/-- The flag is written last (42_alu.md R71). -/
theorem readReg_writeWithFlag (x q : Nib) (b : Byte) (f : Bool) (s : State) :
    readReg q (writeWithFlag x b f s) = if q = 0xF then flagByte f else if q = x then b else readReg q s := by
  simp [writeWithFlag, readReg_writeReg, flagReg]

/-! ## The call stack -/

/-- A push below 16 entries writes the entry above the top and counts it. -/
theorem push_of_lt {a : Word} {s : State} (h : s.sp.val < 16) :
    push a s = some { s with stack := s.stack.set s.sp.val a h, sp := ⟨s.sp.val + 1, by omega⟩ } := by
  simp [push, h]

theorem push_of_full {a : Word} {s : State} (h : s.sp.val = 16) : push a s = none := by
  simp [push, h]

/-- A pop above 0 entries answers the top entry and uncounts it; the entry keeps its value. -/
theorem pop_of_pos {s : State} (h : 0 < s.sp.val) :
    pop s = some (s.stack[s.sp.val - 1]'(by omega), { s with sp := ⟨s.sp.val - 1, by omega⟩ }) := by
  simp [pop, h]

theorem pop_of_empty {s : State} (h : s.sp.val = 0) : pop s = none := by
  simp [pop, h]

/-! ## The framebuffer -/

theorem fbGet_fbPut (b : Bool) (x x' : Fin 64) (y y' : Fin 32) (fb : Screen) :
    fbGet x' y' (fbPut b x y fb) = if x' = x ∧ y' = y then b else fbGet x' y' fb := by
  simp only [fbGet, fbPut, Vector.getElem_set]
  by_cases hy : y = y'
  · subst hy
    by_cases hx : x = x'
    · simp [hx]
    · have : x.val ≠ x'.val := fun e => hx (Fin.ext e)
      simp [this, Ne.symm hx]
  · have : y.val ≠ y'.val := fun e => hy (Fin.ext e)
    simp [this, Ne.symm hy]

/-- A flip changes its own cell alone (60_exceptions.md R112). -/
theorem fbGet_fbFlip (x x' : Fin 64) (y y' : Fin 32) (fb : Screen) :
    fbGet x' y' (fbFlip x y fb) = if x' = x ∧ y' = y then !fbGet x y fb else fbGet x' y' fb := by
  unfold fbFlip fbClear fbSet
  split <;> simp_all [fbGet_fbPut]

theorem fbGet_blankScreen (x : Fin 64) (y : Fin 32) : fbGet x y blankScreen = false := by
  simp [fbGet, blankScreen]

/-! ## Keys -/

theorem mem_allKeys (k : Nib) : k ∈ allKeys := by
  revert k; decide

/-- P is exactly the set of keys that are down (44_timers_keys.md R95). -/
theorem mem_pressedKeys (k : Nib) (s : State) : k ∈ pressedKeys s ↔ keyDown k s = true := by
  simp [pressedKeys, mem_allKeys]

/-- KEYCHOICE picks a member. -/
theorem chosenKey_mem (k : Nib) (ks : List Nib) (s : State) : chosenKey k ks s ∈ k :: ks := by
  unfold chosenKey
  have h : Config.keyChoice s.keyDraws % (ks.length + 1) < (k :: ks).length := by
    simpa using Nat.mod_lt _ (Nat.succ_pos _)
  rw [List.getD_eq_getElem _ _ h]
  exact List.getElem_mem h

/-- A key index over 0x0F names no key; any other names the key of its low nibble. -/
theorem keyOperand_eq (x : Nib) (s : State) :
    keyOperand x s = if 15 < (readReg x s).toNat then none else some (BitVec.ofNat 4 (readReg x s).toNat) := by
  unfold keyOperand
  simp only [gt_iff_lt, BitVec.lt_def]
  rfl

/-! ## Fatal errors, cycles and gaps -/

/-- Taking a fatal error changes the status alone (60_exceptions.md R96). -/
theorem raiseError_eq (kind : ErrorKind) (op : Word) (s : State) :
    raiseError kind op s = .next { s with status := .halted { kind := kind, op := op, pc := s.pc } } := rfl

theorem isHalted_iff (s : State) : isHalted s = true ↔ ∃ err, s.status = .halted err := by
  unfold isHalted
  split <;> simp_all

/-- A word with no handler is the one its decode error names. -/
theorem decodeWord_error {w : Word} {e : DecodeError} (h : decodeWord w = .error e) : e = .unknownInstruction w := by
  have hop : (decodeView w).op = w := rfl
  unfold decodeWord dispatch at h
  split at h <;> first
    | (unfold dispatch8 at h; split at h <;> simp_all)
    | (unfold dispatchE at h; split at h <;> simp_all)
    | (unfold dispatchF at h; split at h <;> simp_all)
    | simp_all

/-- A cycle runs the decoded instruction, or takes UnknownInstruction (30_encoding.md R55). -/
theorem cycle_cases (s : State) :
    (∃ i, decodeWord (fetchWord s) = .ok i ∧ cycle s = exec i s) ∨
    (decodeWord (fetchWord s) = .error (.unknownInstruction (fetchWord s)) ∧
      cycle s = raiseError .unknownInstruction (fetchWord s) s) := by
  unfold cycle
  cases h : decodeWord (fetchWord s) with
  | ok i => exact .inl ⟨i, rfl, rfl⟩
  | error e =>
    obtain rfl := decodeWord_error h
    exact .inr ⟨rfl, rfl⟩

/-- A gap touches the timers, the keys, Dirty and the model's own schedule, and nothing else (60_exceptions.md R115).
-/
theorem betweenCycles_eq (s : State) :
    betweenCycles s = s ∨
    betweenCycles s =
      { s with
        dt := countDownBy (nextGap s).ticks s.dt
        st := countDownBy (nextGap s).ticks s.st
        keys := (nextGap s).keyWrites.foldl putKey s.keys
        dirty := s.dirty && !(nextGap s).dirtyConsumed
        gaps := s.gaps + 1
        schedule := s.schedule.tail } := by
  unfold betweenCycles
  split
  · exact .inl rfl
  · exact .inr rfl

theorem betweenCycles_of_halted {s : State} {err : ErrorRecord} (h : s.status = .halted err) :
    betweenCycles s = s := by
  simp [betweenCycles, isHalted, h]

/-- From a state that is not Halted, a step is a cycle and then a gap. -/
theorem step_of_not_halted {s : State} (h : isHalted s = false) : step s = thenGap (cycle s) := by
  unfold isHalted at h
  unfold step
  split <;> simp_all

/-- From Halted there is no step (30_encoding.md R56). -/
theorem step_of_halted {s : State} {err : ErrorRecord} (h : s.status = .halted err) :
    step s = .fault (.halted err) := by
  simp [step, h]

/-- A key write changes its own flag alone (60_exceptions.md R113). -/
theorem keyDown_writeKey (k q : Nib) (b : Bool) (s : State) :
    keyDown q (writeKey k b s) = if q = k then b else keyDown q s := by
  simp only [keyDown, writeKey, putKey, Vector.getElem_set]
  by_cases h : k = q
  · simp [h]
  · have : k.toNat ≠ q.toNat := fun e => h (BitVec.eq_of_toNat_eq e)
    simp [this, Ne.symm h]

end Sys2Proof.Machine
end

