-- ==== Sys2Proof/Laws/PerInstr.lean ====
section
/-! SUPPORT. For every instruction: the class its word carries in bits 15:12 is the class that
spec/30_encoding.md R57 gives it, so the first dispatch level sends the word to the right place. -/

namespace Sys2Proof.Laws.EncodedClass

/-- The class of each instruction in the opcode map (30_encoding.md R57). -/
def tableClass : Instr → Nib
  | .sys _ => 0x0
  | .cls _ => 0x0
  | .ret _ => 0x0
  | .jp _ => 0x1
  | .call _ => 0x2
  | .seImm _ _ => 0x3
  | .sneImm _ _ => 0x4
  | .seReg _ _ _ => 0x5
  | .ldImm _ _ => 0x6
  | .addImm _ _ => 0x7
  | .ldReg _ _ => 0x8
  | .orReg _ _ => 0x8
  | .andReg _ _ => 0x8
  | .xorReg _ _ => 0x8
  | .addReg _ _ => 0x8
  | .subReg _ _ => 0x8
  | .shr _ _ => 0x8
  | .subnReg _ _ => 0x8
  | .shl _ _ => 0x8
  | .sneReg _ _ _ => 0x9
  | .ldI _ => 0xA
  | .jpV0 _ => 0xB
  | .rnd _ _ => 0xC
  | .drw _ _ _ => 0xD
  | .skp _ => 0xE
  | .sknp _ => 0xE
  | .ldVxDt _ => 0xF
  | .ldVxK _ => 0xF
  | .ldDtVx _ => 0xF
  | .ldStVx _ => 0xF
  | .addI _ => 0xF
  | .ldF _ => 0xF
  | .ldB _ => 0xF
  | .saveRegs _ => 0xF
  | .loadRegs _ => 0xF

/-- The word of the instruction carries its class. -/
def Statement (i : Instr) : Prop := opClass (decodeView (encode i)) = tableClass i

theorem sys (nnn : Lit12) : Statement (.sys nnn) := opClass_wordNNN _ _
theorem cls (ign : Nib) : Statement (.cls ign) := opClass_wordXNN _ _ _
theorem ret (ign : Nib) : Statement (.ret ign) := opClass_wordXNN _ _ _
theorem jp (nnn : Lit12) : Statement (.jp nnn) := opClass_wordNNN _ _
theorem call (nnn : Lit12) : Statement (.call nnn) := opClass_wordNNN _ _
theorem seImm (x : Nib) (nn : Byte) : Statement (.seImm x nn) := opClass_wordXNN _ _ _
theorem sneImm (x : Nib) (nn : Byte) : Statement (.sneImm x nn) := opClass_wordXNN _ _ _
theorem seReg (x y ign : Nib) : Statement (.seReg x y ign) := opClass_wordXYN _ _ _ _
theorem ldImm (x : Nib) (nn : Byte) : Statement (.ldImm x nn) := opClass_wordXNN _ _ _
theorem addImm (x : Nib) (nn : Byte) : Statement (.addImm x nn) := opClass_wordXNN _ _ _
theorem ldReg (x y : Nib) : Statement (.ldReg x y) := opClass_wordXYN _ _ _ _
theorem orReg (x y : Nib) : Statement (.orReg x y) := opClass_wordXYN _ _ _ _
theorem andReg (x y : Nib) : Statement (.andReg x y) := opClass_wordXYN _ _ _ _
theorem xorReg (x y : Nib) : Statement (.xorReg x y) := opClass_wordXYN _ _ _ _
theorem addReg (x y : Nib) : Statement (.addReg x y) := opClass_wordXYN _ _ _ _
theorem subReg (x y : Nib) : Statement (.subReg x y) := opClass_wordXYN _ _ _ _
theorem shr (x y : Nib) : Statement (.shr x y) := opClass_wordXYN _ _ _ _
theorem subnReg (x y : Nib) : Statement (.subnReg x y) := opClass_wordXYN _ _ _ _
theorem shl (x y : Nib) : Statement (.shl x y) := opClass_wordXYN _ _ _ _
theorem sneReg (x y ign : Nib) : Statement (.sneReg x y ign) := opClass_wordXYN _ _ _ _
theorem ldI (nnn : Lit12) : Statement (.ldI nnn) := opClass_wordNNN _ _
theorem jpV0 (nnn : Lit12) : Statement (.jpV0 nnn) := opClass_wordNNN _ _
theorem rnd (x : Nib) (nn : Byte) : Statement (.rnd x nn) := opClass_wordXNN _ _ _
theorem drw (x y n : Nib) : Statement (.drw x y n) := opClass_wordXYN _ _ _ _
theorem skp (x : Nib) : Statement (.skp x) := opClass_wordXNN _ _ _
theorem sknp (x : Nib) : Statement (.sknp x) := opClass_wordXNN _ _ _
theorem ldVxDt (x : Nib) : Statement (.ldVxDt x) := opClass_wordXNN _ _ _
theorem ldVxK (x : Nib) : Statement (.ldVxK x) := opClass_wordXNN _ _ _
theorem ldDtVx (x : Nib) : Statement (.ldDtVx x) := opClass_wordXNN _ _ _
theorem ldStVx (x : Nib) : Statement (.ldStVx x) := opClass_wordXNN _ _ _
theorem addI (x : Nib) : Statement (.addI x) := opClass_wordXNN _ _ _
theorem ldF (x : Nib) : Statement (.ldF x) := opClass_wordXNN _ _ _
theorem ldB (x : Nib) : Statement (.ldB x) := opClass_wordXNN _ _ _
theorem saveRegs (x : Nib) : Statement (.saveRegs x) := opClass_wordXNN _ _ _
theorem loadRegs (x : Nib) : Statement (.loadRegs x) := opClass_wordXNN _ _ _

end Sys2Proof.Laws.EncodedClass
end

