-- ==== Sys2Proof/Tests/Slice0.lean ====
section
/-! SUPPORT. The model's own tests: the WellFormed smoke test, one word for every constructor, vectors of
spec/95_test_vectors.md (named in each comment), and a witness for each statement that has hypotheses. -/

namespace Sys2Proof.Tests

open Sys2Proof Sys2Proof.Machine

/-! ## Helpers -/

/-- Whether a result is a next state that passes a check. -/
def after (r : Result) (check : State → Bool) : Bool :=
  match r with
  | .next t => check t
  | .fault _ => false
  | .refused _ => false

/-- The reset state with registers set. -/
def withRegs (l : List (Nib × Byte)) : State := l.foldl (fun s p => writeReg p.1 p.2 s) State.reset

/-- A state with memory bytes set. -/
def withBytes (l : List (Word × Byte)) (s : State) : State := l.foldl (fun s p => memWrite p.1 p.2 s) s

/-- The status after a fatal error. -/
def haltedAt (kind : ErrorKind) (op pc : Word) : Status := .halted { kind := kind, op := op, pc := pc }

/-! ## WellFormed (30_encoding.md R50) -/

theorem test_sys_with_cls_byte_is_ill_formed : wellFormed (.sys 0x0E0) = false := by decide
theorem test_sys_with_ret_byte_is_ill_formed : wellFormed (.sys 0x1EE) = false := by decide
theorem test_sys_is_well_formed : wellFormed (.sys 0xE00) = true := by decide

/-! ## Decoding: words written out from 30_encoding.md R57 -/

theorem test_decode_class0 :
    decodeWord 0x0123 = .ok (.sys 0x123) ∧ decodeWord 0x0000 = .ok (.sys 0x000) ∧
    decodeWord 0x00E0 = .ok (.cls 0x0) ∧ decodeWord 0x01E0 = .ok (.cls 0x1) ∧
    decodeWord 0x00EE = .ok (.ret 0x0) ∧ decodeWord 0x0FEE = .ok (.ret 0xF) := by decide

theorem test_decode_control :
    decodeWord 0x1234 = .ok (.jp 0x234) ∧ decodeWord 0x2789 = .ok (.call 0x789) ∧
    decodeWord 0x3342 = .ok (.seImm 0x3 0x42) ∧ decodeWord 0x4300 = .ok (.sneImm 0x3 0x00) ∧
    decodeWord 0x5121 = .ok (.seReg 0x1 0x2 0x1) ∧ decodeWord 0x912F = .ok (.sneReg 0x1 0x2 0xF) ∧
    decodeWord 0xBFFE = .ok (.jpV0 0xFFE) := by decide

theorem test_decode_alu_literal :
    decodeWord 0x6A3C = .ok (.ldImm 0xA 0x3C) ∧ decodeWord 0x7102 = .ok (.addImm 0x1 0x02) ∧
    decodeWord 0xC30F = .ok (.rnd 0x3 0x0F) := by decide

theorem test_decode_class8 :
    decodeWord 0x8120 = .ok (.ldReg 0x1 0x2) ∧ decodeWord 0x8121 = .ok (.orReg 0x1 0x2) ∧
    decodeWord 0x8122 = .ok (.andReg 0x1 0x2) ∧ decodeWord 0x8123 = .ok (.xorReg 0x1 0x2) ∧
    decodeWord 0x8124 = .ok (.addReg 0x1 0x2) ∧ decodeWord 0x8125 = .ok (.subReg 0x1 0x2) ∧
    decodeWord 0x8126 = .ok (.shr 0x1 0x2) ∧ decodeWord 0x8127 = .ok (.subnReg 0x1 0x2) ∧
    decodeWord 0x812E = .ok (.shl 0x1 0x2) := by decide

theorem test_decode_index_display :
    decodeWord 0xA345 = .ok (.ldI 0x345) ∧ decodeWord 0xD01F = .ok (.drw 0x0 0x1 0xF) := by decide

theorem test_decode_classE :
    decodeWord 0xE49E = .ok (.skp 0x4) ∧ decodeWord 0xE4A1 = .ok (.sknp 0x4) := by decide

theorem test_decode_classF :
    decodeWord 0xF507 = .ok (.ldVxDt 0x5) ∧ decodeWord 0xF30A = .ok (.ldVxK 0x3) ∧
    decodeWord 0xFA15 = .ok (.ldDtVx 0xA) ∧ decodeWord 0xF118 = .ok (.ldStVx 0x1) ∧
    decodeWord 0xF11E = .ok (.addI 0x1) ∧ decodeWord 0xF229 = .ok (.ldF 0x2) ∧
    decodeWord 0xF033 = .ok (.ldB 0x0) ∧ decodeWord 0xF655 = .ok (.saveRegs 0x6) ∧
    decodeWord 0xF665 = .ok (.loadRegs 0x6) := by decide

/-- Vectors X1 to X5 and the neighbours of defined sub-codes (R52). -/
theorem test_decode_refuses_undefined :
    decodeWord 0x8008 = .error (.unknownInstruction 0x8008) ∧ decodeWord 0x800D = .error (.unknownInstruction 0x800D) ∧
    decodeWord 0x800F = .error (.unknownInstruction 0x800F) ∧ decodeWord 0xE000 = .error (.unknownInstruction 0xE000) ∧
    decodeWord 0xE09F = .error (.unknownInstruction 0xE09F) ∧ decodeWord 0xF000 = .error (.unknownInstruction 0xF000) ∧
    decodeWord 0xFFFF = .error (.unknownInstruction 0xFFFF) := by decide

theorem test_table_word : decodeTableWord 16 0xD012 = some (.drw 0x0 0x1 0x2) ∧ decodeTableWord 16 0x8008 = none := by
  decide

/-! ## Fetch and step -/

/-- X8: the fetch wraps from 0xFFF to 0x000, big-endian. -/
theorem test_fetch_wraps :
    fetchWord (withBytes [(0xFFF, 0x60)] { State.reset with pc := 0x0FFF }) = 0x60F0 := by decide

/-- X7: pc 0x1000 fetches the font bytes at 0x000 and 0x001, an undefined word. -/
theorem test_step_takes_unknown_instruction :
    after (step { State.reset with pc := 0x1000 })
      (fun t => t.status == haltedAt .unknownInstruction 0xF090 0x1000 && t.pc == 0x1000) = true := by decide

/-- L4: an empty program halts at its first zero word. -/
theorem test_step_from_reset_halts :
    after (step State.reset) (fun t => t.status == haltedAt .unsupportedInstruction 0x0000 0x200) = true := by decide

/-- X10: Halted has no step. -/
theorem test_halted_has_no_step :
    step { State.reset with status := haltedAt .stackOverflow 0x2200 0x200 } =
      .fault (.halted { kind := .stackOverflow, op := 0x2200, pc := 0x200 }) := rfl

/-- A placed word is what the next step runs (F7). -/
theorem test_step_runs_placed_word :
    after (step (State.reset.withFetchWord 16 0x1234)) (fun t => t.pc == 0x234) = true := by decide

/-- A gap fixed by the schedule: 60_exceptions.md R108, R115; K11. -/
theorem test_step_applies_schedule :
    after (step { (State.reset.withFetchWord 16 0x1200) with
        dt := 0x3C, dirty := true,
        schedule := [{ ticks := 3, keyWrites := [(0xB, true)], dirtyConsumed := true }] })
      (fun t => t.dt == 0x39 && keyDown 0xB t && !t.dirty && t.st == 0x00 && t.schedule.isEmpty) = true := by decide

/-! ## Display -/

/-- D2. -/
theorem test_cls :
    after (exec (.cls 0x0) { State.reset with fb := fbSet 63 31 (fbSet 5 5 State.reset.fb) })
      (fun t => !fbGet 5 5 t.fb && !fbGet 63 31 t.fb && t.dirty && t.pc == 0x202) = true := by decide

/-- D9, D13: rows wrap; a collision in row 0 only still sets VF. -/
theorem test_drw_wraps_and_collides :
    after (exec (.drw 0x0 0x1 0x2)
        { withBytes [(0x300, 0x80), (0x301, 0x80)] (withRegs [(0x1, 0x1F)]) with
          idx := 0x300, fb := fbSet 0 31 State.reset.fb })
      (fun t => !fbGet 0 31 t.fb && fbGet 0 0 t.fb && readReg 0xF t == 0x01 && t.dirty) = true := by decide

/-- D11: with X = F the coordinate is VF's old value. -/
theorem test_drw_reads_old_vf :
    after (exec (.drw 0xF 0x1 0x1) { withBytes [(0x300, 0x80)] (withRegs [(0xF, 0x3E)]) with idx := 0x300 })
      (fun t => fbGet 62 0 t.fb && readReg 0xF t == 0x00) = true := by decide

/-! ## Control transfer -/

/-- F2. -/
theorem test_call_fills_last_entry :
    after (exec (.call 0x400) { State.reset with pc := 0x300, sp := 15 })
      (fun t => t.pc == 0x400 && t.sp == 16 && t.stack[15] == 0x300) = true := by decide

/-- F3. -/
theorem test_call_overflows :
    after (exec (.call 0x400) { State.reset with pc := 0x300, sp := 16 })
      (fun t => t.status == haltedAt .stackOverflow 0x2400 0x300 && t.pc == 0x300 && t.sp == 16) = true := by decide

/-- F6: u16 wrap. -/
theorem test_ret_wraps :
    after (exec (.ret 0x0) { State.reset with sp := 1, stack := Vector.replicate 16 0xFFFF })
      (fun t => t.pc == 0x0001 && t.sp == 0 && t.stack[0] == 0xFFFF) = true := by decide

/-- F5, with ignored bits set: the record holds the raw opcode. -/
theorem test_ret_underflows :
    after (exec (.ret 0xF) { State.reset with pc := 0x789 })
      (fun t => t.status == haltedAt .stackUnderflow 0x0FEE 0x789) = true := by decide

/-- F10: the sum is not masked. -/
theorem test_jpV0 : after (exec (.jpV0 0xFFF) (withRegs [(0x0, 0xFF)])) (fun t => t.pc == 0x10FE) = true := by decide

/-- F17: u16 wrap of a taken skip. -/
theorem test_seImm_wraps :
    after (exec (.seImm 0x3 0x42) { withRegs [(0x3, 0x42)] with pc := 0xFFFE }) (fun t => t.pc == 0x0002) = true := by
  decide

/-- F16. -/
theorem test_sneImm : after (exec (.sneImm 0x3 0x00) (withRegs [(0x3, 0x42)])) (fun t => t.pc == 0x204) = true := by
  decide

/-- F20. -/
theorem test_seReg :
    after (exec (.seReg 0x1 0x2 0x1) (withRegs [(0x1, 0x07), (0x2, 0x07)])) (fun t => t.pc == 0x204) = true := by decide

/-- F24. -/
theorem test_sneReg : after (exec (.sneReg 0x1 0x1 0x0) State.reset) (fun t => t.pc == 0x202) = true := by decide

/-- F25. -/
theorem test_sys :
    after (exec (.sys 0x123) { State.reset with pc := 0x2A0 })
      (fun t => t.status == haltedAt .unsupportedInstruction 0x0123 0x2A0 && t.pc == 0x2A0) = true := by decide

/-! ## Register and ALU -/

/-- A2. -/
theorem test_ldImm : after (exec (.ldImm 0xF 0x01) State.reset) (fun t => readReg 0xF t == 0x01) = true := by decide

/-- A3. -/
theorem test_addImm_wraps_without_flag :
    after (exec (.addImm 0x1 0x02) (withRegs [(0x1, 0xFF)]))
      (fun t => readReg 0x1 t == 0x01 && readReg 0xF t == 0x00) = true := by decide

/-- A6. -/
theorem test_ldReg : after (exec (.ldReg 0x1 0x2) (withRegs [(0x2, 0x55)])) (fun t => readReg 0x1 t == 0x55) = true := by
  decide

/-- A7, A8, A9. -/
theorem test_bitwise :
    after (exec (.orReg 0x1 0x2) (withRegs [(0x1, 0xF0), (0x2, 0x0F), (0xF, 0x07)]))
      (fun t => readReg 0x1 t == 0xFF && readReg 0xF t == 0x07) = true ∧
    after (exec (.andReg 0x1 0x2) (withRegs [(0x1, 0xF0), (0x2, 0x3C)])) (fun t => readReg 0x1 t == 0x30) = true ∧
    after (exec (.xorReg 0x1 0x2) (withRegs [(0x1, 0xF0), (0x2, 0x3C)])) (fun t => readReg 0x1 t == 0xCC) = true := by
  decide

/-- A11. -/
theorem test_addReg_carries :
    after (exec (.addReg 0x1 0x2) (withRegs [(0x1, 0xC8), (0x2, 0x64)]))
      (fun t => readReg 0x1 t == 0x2C && readReg 0xF t == 0x01) = true := by decide

/-- A13: the flag is written last. -/
theorem test_addReg_to_vf :
    after (exec (.addReg 0xF 0x1) (withRegs [(0xF, 0xFF), (0x1, 0x01)])) (fun t => readReg 0xF t == 0x01) = true := by
  decide

/-- A17. -/
theorem test_subReg_borrows :
    after (exec (.subReg 0x1 0x2) (withRegs [(0x1, 0x03), (0x2, 0x05)]))
      (fun t => readReg 0x1 t == 0xFE && readReg 0xF t == 0x00) = true := by decide

/-- A18: equal operands do not borrow. -/
theorem test_subReg_equal :
    after (exec (.subReg 0x1 0x2) (withRegs [(0x1, 0x07), (0x2, 0x07)]))
      (fun t => readReg 0x1 t == 0x00 && readReg 0xF t == 0x01) = true := by decide

/-- E2. -/
theorem test_subnReg :
    after (exec (.subnReg 0x1 0x2) (withRegs [(0x1, 0x03), (0x2, 0xA2)]))
      (fun t => readReg 0x1 t == 0x9F && readReg 0xF t == 0x01) = true := by decide

/-- A26: Y is ignored. -/
theorem test_shr :
    after (exec (.shr 0x1 0x2) (withRegs [(0x1, 0x04), (0x2, 0xFF)]))
      (fun t => readReg 0x1 t == 0x02 && readReg 0xF t == 0x00 && readReg 0x2 t == 0xFF) = true := by decide

/-- A36. -/
theorem test_shl :
    after (exec (.shl 0x1 0x0) (withRegs [(0x1, 0xFF)]))
      (fun t => readReg 0x1 t == 0xFE && readReg 0xF t == 0x01) = true := by decide

/-- A41: a zero mask gives zero whatever the byte is. -/
theorem test_rnd_zero_mask :
    exec (.rnd 0x3 0x00) State.reset = .next (nextPc (writeReg 0x3 0x00 (dropRandom State.reset))) := by
  simp [exec, execRnd]

/-! ## Index register and memory -/

/-- M2. -/
theorem test_ldI : after (exec (.ldI 0xFFF) { State.reset with idx := 0x1001 }) (fun t => t.idx == 0x0FFF) = true := by
  decide

/-- M7: the byte is not reduced to its low nibble. -/
theorem test_ldF : after (exec (.ldF 0x2) (withRegs [(0x2, 0xFF)])) (fun t => t.idx == 0x04FB) = true := by decide

/-- M14: the digits wrap into the font. -/
theorem test_ldB_wraps :
    after (exec (.ldB 0x0) { withRegs [(0x0, 0xFE)] with idx := 0x0FFF })
      (fun t => memRead 0xFFF t == 0x02 && memRead 0x000 t == 0x05 && memRead 0x001 t == 0x04 && t.idx == 0x0FFF) =
      true := by decide

/-- M18. -/
theorem test_addI_wraps :
    after (exec (.addI 0x1) { withRegs [(0x1, 0xFF)] with idx := 0xFFFF }) (fun t => t.idx == 0x00FE) = true := by decide

/-- M20: only V0 is stored. -/
theorem test_saveRegs_one :
    after (exec (.saveRegs 0x0) { withRegs [(0x0, 0xAA), (0x1, 0xBB)] with idx := 0x0345 })
      (fun t => memRead 0x345 t == 0xAA && memRead 0x346 t == 0x00 && t.idx == 0x0345) = true := by decide

/-- M22: the last byte wraps to 0x000. -/
theorem test_saveRegs_wraps :
    after (exec (.saveRegs 0x2) { withRegs [(0x0, 0xAA), (0x1, 0xBB), (0x2, 0xCC)] with idx := 0x0FFE })
      (fun t => memRead 0xFFE t == 0xAA && memRead 0xFFF t == 0xBB && memRead 0x000 t == 0xCC) = true := by decide

/-- M25: I over 0xFFF reads the font at 0x001. -/
theorem test_loadRegs_reduces_address :
    after (exec (.loadRegs 0x0) { State.reset with idx := 0x1001 }) (fun t => readReg 0x0 t == 0x90) = true := by decide

/-- M23: VF is loaded when X = F. -/
theorem test_loadRegs_all :
    after (exec (.loadRegs 0xF) (withBytes [(0x30F, 0x1F), (0x300, 0x10)] { State.reset with idx := 0x300 }))
      (fun t => readReg 0x0 t == 0x10 && readReg 0xF t == 0x1F) = true := by decide

/-! ## Keys and timers -/

/-- K7: the largest key index, in VF. -/
theorem test_skp :
    after (exec (.skp 0xF) (writeKey 0xF true (withRegs [(0xF, 0x0F)]))) (fun t => t.pc == 0x204) = true := by decide

/-- K3. -/
theorem test_skp_out_of_range :
    after (exec (.skp 0x4) (withRegs [(0x4, 0x10)]))
      (fun t => t.status == haltedAt .keyIndexOutOfRange 0xE49E 0x200 && t.pc == 0x200) = true := by decide

/-- K4. -/
theorem test_sknp : after (exec (.sknp 0x4) (withRegs [(0x4, 0x07)])) (fun t => t.pc == 0x204) = true := by decide

/-- K6. -/
theorem test_sknp_out_of_range :
    after (exec (.sknp 0x4) (withRegs [(0x4, 0xFF)]))
      (fun t => t.status == haltedAt .keyIndexOutOfRange 0xE4A1 0x200) = true := by decide

/-- K8. -/
theorem test_ldVxDt :
    after (exec (.ldVxDt 0x5) { State.reset with dt := 0x20 }) (fun t => readReg 0x5 t == 0x20) = true := by decide

/-- K10. -/
theorem test_ldDtVx : after (exec (.ldDtVx 0xA) (withRegs [(0xA, 0x3C)])) (fun t => t.dt == 0x3C && t.st == 0x00) = true := by
  decide

/-- K12. -/
theorem test_ldStVx : after (exec (.ldStVx 0x1) (withRegs [(0x1, 0x05)])) (fun t => t.st == 0x05 && t.dt == 0x00) = true := by
  decide

/-- K17. -/
theorem test_ldVxK_waits :
    after (exec (.ldVxK 0x3) { State.reset with pc := 0x210 })
      (fun t => t.pc == 0x210 && t.status == .awaitingKey && readReg 0x3 t == 0x00) = true := by decide

/-- K18: one key down leaves no choice. -/
theorem test_ldVxK_takes_only_key :
    readReg 0x3 (nextPc (setStatus .running (writeReg 0x3 (nibble8
      (chosenKey 0xB [] (writeKey 0xB true State.reset))) State.reset))) = 0x0B ∧
    pressedKeys (writeKey 0xB true State.reset) = [0xB] := by
  constructor
  · simp [chosenKey, readReg_writeReg, Nat.mod_one, nibble8]
  · decide

/-- K16, K15. -/
theorem test_tick :
    tick State.reset = State.reset ∧ (tick { State.reset with dt := 0x01, st := 0x05 }).dt = 0x00 ∧
    (tick { State.reset with dt := 0x01, st := 0x05 }).st = 0x04 := by decide

/-! ## Load and reset -/

/-- L1. -/
theorem test_load : after (boot [0x12, 0x00]) (fun t => memRead 0x200 t == 0x12 && t.pc == 0x200) = true := by decide

/-- L3 and the codes of 60_exceptions.md R96. -/
theorem test_load_overflows (image : List Byte) (h : image.length = 3585) :
    boot image = .fault (.loadOverflow 3585) ∧ faultCode (.loadOverflow 3585) = 6 := by
  constructor
  · simp [boot, loadImage, h]
  · rfl

/-- L5: first and last glyph, and the gap above the font. -/
theorem test_reset_memory :
    memRead 0x000 State.reset = 0xF0 ∧ memRead 0x04F State.reset = 0x80 ∧ memRead 0x050 State.reset = 0x00 := by decide

/-- A write of the reset contents leaves nothing listed (log entry 8). -/
theorem test_write_back_is_canonical :
    Memory.write (Memory.write [] 0x300 0x07) 0x300 0x00 = [] ∧
    Memory.write (Memory.write [] 0x300 0x07) 0x100 0x01 = [(0x100, 0x01), (0x300, 0x07)] := by decide

/-! ## Witnesses: states and operands that meet the hypotheses of the statements -/

theorem reset_notHalted : NotHalted State.reset := fun _ h => nomatch h

/-- DrwXorsSpriteAndFlagsCollision: the corner cells lit, one of them set before, and a cell not lit. -/
theorem witness_drw :
    let s : State := { withBytes [(0x300, 0x81)] (withRegs [(0x0, 0x3C), (0x1, 0x1F)]) with
      idx := 0x300, fb := fbSet 60 31 State.reset.fb }
    SpriteLights s (readReg 0x0 s) (readReg 0x1 s) 1 60 31 ∧ fbGet 60 31 s.fb = true ∧
    SpriteLights s (readReg 0x0 s) (readReg 0x1 s) 1 3 31 ∧ fbGet 3 31 s.fb = false ∧
    ¬SpriteLights s (readReg 0x0 s) (readReg 0x1 s) 1 3 0 := by
  refine ⟨⟨0, 0, by decide, by decide, by decide, by decide, by decide⟩, by decide,
    ⟨0, 7, by decide, by decide, by decide, by decide, by decide⟩, by decide, ?_⟩
  rintro ⟨r, c, hr, _, _, hy, _⟩
  obtain rfl : r = 0 := by omega
  exact absurd hy (by decide)

/-- DrawingTwiceRestoresScreen, both collision clauses: its lit cell clear, and its only lit cell set. -/
theorem witness_draw_twice :
    let s : State := { withBytes [(0x300, 0x80)] State.reset with idx := 0x300 }
    (0x0#4 ≠ 0xF#4) ∧ SpriteLights s (readReg 0x0 s) (readReg 0x1 s) 1 0 0 ∧ fbGet 0 0 s.fb = false ∧
    ¬∃ (cx : Fin 64) (cy : Fin 32), SpriteLights s (readReg 0x0 s) (readReg 0x1 s) 0 cx cy ∧
      fbGet cx cy s.fb = false := by
  refine ⟨by decide, ⟨0, 0, by decide, by decide, by decide, by decide, by decide⟩, by decide, ?_⟩
  rintro ⟨_, _, ⟨r, _, hr, _⟩, _⟩
  omega

/-- CallPushesPcAndJumps, ReturnResumesAfterCall: SP at 15 and at 16. -/
theorem witness_call :
    ({ State.reset with sp := 15 } : State).sp.val < 16 ∧ ({ State.reset with sp := 16 } : State).sp.val = 16 := by decide

/-- RetPopsAndAdvances: SP at 1, at 16 and at 0. -/
theorem witness_ret :
    0 < ({ State.reset with sp := 1 } : State).sp.val ∧ 0 < ({ State.reset with sp := 16 } : State).sp.val ∧
    State.reset.sp.val = 0 := by decide

/-- The skips: both sides of each condition. -/
theorem witness_skips :
    readReg 0x3 (withRegs [(0x3, 0x42)]) = 0x42 ∧ readReg 0x3 (withRegs [(0x3, 0x42)]) ≠ 0x43 ∧
    readReg 0x1 (withRegs [(0x1, 0x07), (0x2, 0x07)]) = readReg 0x2 (withRegs [(0x1, 0x07), (0x2, 0x07)]) ∧
    readReg 0x1 (withRegs [(0x1, 0x07)]) ≠ readReg 0x2 (withRegs [(0x1, 0x07)]) := by decide

/-- SysTakesUnsupportedInstruction: the bytes next to 0xE0 and 0xEE. -/
theorem witness_sys :
    (0x0DF#12).extractLsb' 0 8 ≠ 0xE0#8 ∧ (0x0E1#12).extractLsb' 0 8 ≠ 0xE0#8 ∧
    (0x0ED#12).extractLsb' 0 8 ≠ 0xEE#8 ∧ (0x0EF#12).extractLsb' 0 8 ≠ 0xEE#8 ∧
    (0x0E1#12).extractLsb' 0 8 ≠ 0xEE#8 := by decide

/-- The flag writers: sums 255 and 256, equal and borrowing operands, both shifted-out bits, and X other than F. -/
theorem witness_flags :
    (0x80#8).toNat + (0x7F#8).toNat = 255 ∧ (0x80#8).toNat + (0x80#8).toNat > 255 ∧
    ¬(0x07#8).toNat < (0x07#8).toNat ∧ (0x06#8).toNat < (0x07#8).toNat ∧
    (0x01#8).toNat % 2 = 1 ∧ ¬(0x02#8).toNat % 2 = 1 ∧ (0x80#8).toNat ≥ 128 ∧ ¬(0x7F#8).toNat ≥ 128 ∧
    0x1#4 ≠ 0xF#4 := by decide

/-- LdBStoresDecimalDigits, SaveRegsStoresBlock: an address outside the stored cells, with I at the top of memory. -/
theorem witness_outside_store :
    let s : State := { State.reset with idx := 0x0FFE }
    (∀ k < 3, cellOf 0x0001 ≠ cellOf (indexed k s)) ∧ (∀ k ≤ 15, cellOf 0x000E ≠ cellOf (indexed k s)) := by decide

/-- SaveRegsStoresBlock, LoadRegsReadsBlock, LoadAfterSaveRestores: registers at and past the bound. -/
theorem witness_block_bound : (0x6#4 ≤ 0x6#4) ∧ (0xF#4 ≤ 0xF#4) ∧ ¬(0x7#4 ≤ 0x6#4) := by decide

/-- LoadAfterSaveRestores: the state right after the save is such a state u. -/
theorem witness_load_after_save :
    ∃ t, exec (.saveRegs 0x1) State.reset = .next t ∧ t.idx = State.reset.idx ∧ ∀ a, memRead a t = memRead a t :=
  ⟨_, rfl, rfl, fun _ => rfl⟩

/-- SkpSkipsOnKeyDown, SknpSkipsOnKeyUp: 0x0F and 0x10, and a key in each state. -/
theorem witness_key_index :
    (readReg 0x4 (withRegs [(0x4, 0x0F)])).toNat ≤ 0x0F ∧ (readReg 0x4 (withRegs [(0x4, 0x10)])).toNat > 0x0F ∧
    keyDown 0xF (writeKey 0xF true State.reset) = true ∧ keyDown 0xF State.reset = false := by decide

/-- LdVxKWaitsForKey: no key down, and one down. -/
theorem witness_ldVxK :
    (∀ k : Nib, keyDown k State.reset = false) ∧ ∃ k : Nib, keyDown k (writeKey 0xF true State.reset) = true :=
  ⟨by decide, 0xF, by decide⟩

/-- DecodeReadsEncode, EncodeWritesDecode. -/
theorem witness_encode : wellFormed (.drw 0xF 0xF 0xF) = true ∧ decodeWord 0xDFFF = .ok (.drw 0xF 0xF 0xF) := by decide

/-- StepRunsDecodedInstruction: a state not Halted at a defined word. -/
theorem witness_step :
    NotHalted (State.reset.withFetchWord 16 0x6A3C) ∧
    decodeWord (fetchWord (State.reset.withFetchWord 16 0x6A3C)) = .ok (.ldImm 0xA 0x3C) :=
  ⟨(fun _ h => nomatch h), by decide⟩

/-- UndefinedWordHaltsWithRecord: an undefined word of each class at the pc of a state not Halted. -/
theorem witness_undefined_word :
    NotHalted (State.reset.withFetchWord 16 0x8008) ∧
    UndefinedWord (fetchWord (State.reset.withFetchWord 16 0x8008)) ∧
    UndefinedWord (fetchWord (State.reset.withFetchWord 16 0xE09F)) ∧
    UndefinedWord (fetchWord (State.reset.withFetchWord 16 0xFFFF)) :=
  ⟨(fun _ h => nomatch h), .inl (by decide), .inr (.inl (by decide)), .inr (.inr (by decide))⟩

/-- HaltedRunsNoCycle, GapTouchesOnlyTimersKeysDirty: a Halted state. -/
theorem witness_halted :
    ({ State.reset with status := haltedAt .unsupportedInstruction 0x0000 0x200 } : State).status =
      .halted { kind := .unsupportedInstruction, op := 0x0000, pc := 0x200 } := rfl

/-- FatalErrorsChangeOnlyStatus, FatalErrorsAreExactlyTheTable: an instruction that halts and one that does not. -/
theorem witness_fatal :
    (∃ t err, exec (.sys 0x123) State.reset = .next t ∧ t.status = .halted err ∧
      err.kind = .unsupportedInstruction) ∧
    ∃ t, exec (.jp 0x200) State.reset = .next t ∧ t.status = .running :=
  ⟨⟨_, _, rfl, rfl, rfl⟩, _, rfl, rfl⟩

/-- StepKeepsInvariant: states with the invariant that are running, waiting and Halted, and a step from the first. -/
theorem witness_invariant :
    (MachineInv (State.reset.withFetchWord 16 0x1234) ∧
      ∃ t, step (State.reset.withFetchWord 16 0x1234) = .next t) ∧
    MachineInv { (State.reset.withFetchWord 16 0xF30A) with status := .awaitingKey } ∧
    MachineInv { State.reset with status := haltedAt .unsupportedInstruction 0x0000 0x200 } := by
  refine ⟨⟨⟨by decide, (fun h => nomatch h), (fun _ h => nomatch h)⟩, _, rfl⟩,
    ⟨by decide, fun _ => ⟨0x3, by decide⟩, (fun _ h => nomatch h)⟩, ⟨by decide, (fun h => nomatch h), ?_⟩⟩
  intro err h
  obtain rfl : ({ kind := .unsupportedInstruction, op := 0x0000, pc := 0x200 } : ErrorRecord) = err := by
    injection h
  exact ⟨rfl, by decide, 0x000, by decide⟩

/-- FlagRegisterHasOnlyItsWriters: an instruction that changes VF. The two statements on writers have only
`exec i s = .next t` as hypothesis, which this meets too. -/
theorem witness_flag_write :
    ∃ t, exec (.shr 0x1 0x0) (withRegs [(0x1, 0x01)]) = .next t ∧ readReg 0xF t ≠ readReg 0xF (withRegs [(0x1, 0x01)]) :=
  ⟨_, rfl, by decide⟩

/-- TickDecrementsNonzeroTimers: timers at 0 and over 0. -/
theorem witness_tick :
    State.reset.dt = 0x00 ∧ State.reset.st = 0x00 ∧ ({ State.reset with dt := 0x01 } : State).dt.toNat > 0 ∧
    ({ State.reset with st := 0xFF } : State).st.toNat > 0 := by decide

/-- GapTouchesOnlyTimersKeysDirty: a gap that writes one key twice and leaves another alone. -/
theorem witness_gap :
    let s : State := { State.reset with
      schedule := [{ ticks := 1, keyWrites := [(0xB, true), (0xB, false)], dirtyConsumed := false }] }
    NotHalted s ∧ (∀ w ∈ (nextGap s).keyWrites, w.1 ≠ 0x3) ∧
    (nextGap s).keyWrites = [(0xB, true)] ++ (0xB, false) :: [] :=
  ⟨(fun _ h => nomatch h), by decide, rfl⟩

/-- LoadCopiesImageOrOverflows: images of 3584 and 3585 bytes, an index in range, and a cell outside the image. -/
theorem witness_load :
    (∃ image : List Byte, image.length = 3584 ∧ image.length ≤ 3584) ∧
    (∃ image : List Byte, image.length = 3585 ∧ image.length > 3584) ∧
    0 < ([0x12, 0x00] : List Byte).length ∧ ∀ j < ([0x12, 0x00] : List Byte).length, cellOf 0x202 ≠ 0x200 + j := by
  refine ⟨⟨List.replicate 3584 0x00, ?_⟩, ⟨List.replicate 3585 0x00, ?_⟩, by decide, by decide⟩ <;>
    rw [List.length_replicate] <;> exact ⟨rfl, by decide⟩

/-- ResetGivesListedValues: the first and the last cell of its zero range. -/
theorem witness_reset_cell : 80 ≤ (0x050#16).toNat ∧ (0xFFF#16).toNat < 4096 := by decide

/-- SelfJumpKeepsState. -/
theorem witness_self_jump :
    fetchWord (State.reset.withFetchWord 16 0x1200) = 0x1#4 ++ 0x200#12 ∧
    (State.reset.withFetchWord 16 0x1200).pc.toNat = (0x200#12).toNat := by decide

/-- CanonicalMemoriesAreEqualData: a canonical memory that lists a cell. -/
theorem witness_canonical :
    Memory.wf [(0x000, 0x01), (0xFFF, 0x07)] = true ∧ Memory.wf [(0x050, 0x00)] = false := by decide

end Sys2Proof.Tests
end

section
/-! SUPPORT. The fetched word as a number (spec/30_encoding.md R48), and the obligation that states it. -/

namespace Sys2Proof

/-- Big-endian (spec/20_memory.md R30): the first byte weighs 256. -/
theorem assembleWord_toNat (first second : Byte) :
    (assembleWord first second).toNat = 256 * first.toNat + second.toNat := by
  calc (assembleWord first second).toNat
      = first.toNat <<< 8 ||| second.toNat := BitVec.toNat_append first second
    _ = first.toNat <<< 8 + second.toNat := (Nat.shiftLeft_add_eq_or_of_lt second.isLt first.toNat).symm
    _ = 256 * first.toNat + second.toNat := by rw [Nat.shiftLeft_eq, Nat.mul_comm]

end Sys2Proof

namespace Sys2Proof.Machine

/-- The next address is formed as a u16 before it is reduced to a cell. -/
theorem cellOf_add_one (a : Word) : cellOf (a + 1) = (a.toNat + 1) % 65536 % Config.memorySize :=
  congrArg (· % Config.memorySize) (BitVec.toNat_add a 1)

/-- Settles O40: the word assembles two memory reads, and each read reduces its own address. -/
theorem fetchReadsBigEndianWord : Obligations.FetchReadsBigEndianWord := by
  intro s
  have hfirst : memRead s.pc s = Memory.read s.mem (s.pc.toNat % 4096) := rfl
  have hsecond : memRead (s.pc + 1) s = Memory.read s.mem ((s.pc.toNat + 1) % 65536 % 4096) :=
    congrArg (Memory.read s.mem) (cellOf_add_one s.pc)
  rw [fetchWord, assembleWord_toNat, hfirst, hsecond]

end Sys2Proof.Machine
end

section
/-! SUPPORT. CLS (spec/40_display.md R60): its word, what it leaves unchanged, and the obligation that states it. -/

namespace Sys2Proof

/-- Class 0 selects on the low byte alone, so bits 11:8 are free (spec/30_encoding.md R50). -/
theorem decodeWord_cls (ign : Nib) : decodeWord (wordXNN 0x0#4 ign 0xE0#8) = .ok (.cls ign) := by
  have hclass : opClass (decodeView (wordXNN 0x0#4 ign 0xE0#8)) = 0x0#4 := opClass_wordXNN _ _ _
  have hlow : lowByte (decodeView (wordXNN 0x0#4 ign 0xE0#8)) = 0xE0#8 := lowByte_wordXNN _ _ _
  have hx : (decodeView (wordXNN 0x0#4 ign 0xE0#8)).x = ign := by rw [decodeView_wordXNN]
  simp only [decodeWord, dispatch, dispatch0, hclass, hlow, hx]

end Sys2Proof

namespace Sys2Proof.Machine

theorem exec_cls (ign : Nib) (s : State) :
    exec (.cls ign) s = .next (nextPc (raiseDirty (setFb blankScreen s))) := rfl

/-- A display instruction that writes no register touches the framebuffer, Dirty and pc alone. -/
theorem onlyParts_redraw (fb : Screen) (s : State) :
    OnlyParts [.pc, .fb, .dirty] s (nextPc (raiseDirty (setFb fb s))) := by
  intro p hp
  cases p with
  | pc | fb | dirty => simp at hp
  | _ => simp [SamePart]

/-- Settles O1: the word carries class 0 and low byte E0, and every cell of the blank screen is false. -/
theorem clsClearsScreenAndRaisesDirty : Obligations.ClsClearsScreenAndRaisesDirty := by
  intro ign s
  refine ⟨decodeWord_cls ign, _, exec_cls ign s, ?cells, ?dirty, ?pc, ?regs, onlyParts_redraw blankScreen s⟩
  case cells =>
    intro x y
    simp [fbGet_blankScreen]
  case dirty => simp
  case pc => simp
  case regs =>
    intro r _
    simp

end Sys2Proof.Machine
end

section
/-! SUPPORT. The literal jump and the literal skips (spec/41_control_flow.md R64, R66, R67): their words, what an update
of pc leaves unchanged, and the obligations that state them. -/

namespace Sys2Proof

theorem decodeWord_jp (nnn : Lit12) : decodeWord (wordNNN 0x1#4 nnn) = .ok (.jp nnn) := by
  have hclass : opClass (decodeView (wordNNN 0x1#4 nnn)) = 0x1#4 := opClass_wordNNN _ _
  have hnnn : (decodeView (wordNNN 0x1#4 nnn)).nnn = nnn := by rw [decodeView_wordNNN]
  simp only [decodeWord, dispatch, hclass, hnnn]

theorem decodeWord_seImm (x : Nib) (nn : Byte) : decodeWord (wordXNN 0x3#4 x nn) = .ok (.seImm x nn) := by
  have hclass : opClass (decodeView (wordXNN 0x3#4 x nn)) = 0x3#4 := opClass_wordXNN _ _ _
  have hx : (decodeView (wordXNN 0x3#4 x nn)).x = x := by rw [decodeView_wordXNN]
  simp only [decodeWord, dispatch, hclass, hx, lowByte_wordXNN]

theorem decodeWord_sneImm (x : Nib) (nn : Byte) : decodeWord (wordXNN 0x4#4 x nn) = .ok (.sneImm x nn) := by
  have hclass : opClass (decodeView (wordXNN 0x4#4 x nn)) = 0x4#4 := opClass_wordXNN _ _ _
  have hx : (decodeView (wordXNN 0x4#4 x nn)).x = x := by rw [decodeView_wordXNN]
  simp only [decodeWord, dispatch, hclass, hx, lowByte_wordXNN]

end Sys2Proof

namespace Sys2Proof.Machine

/-! ## Updates of pc -/

/-- The zero extension of a 12-bit literal keeps its value: no literal reaches 2^16. -/
@[simp] theorem literal16_toNat (nnn : Lit12) : (literal16 nnn).toNat = nnn.toNat :=
  BitVec.toNat_setWidth_of_le (by decide)

theorem onlyRegs_jumpTo (target : Word) (s : State) : OnlyRegs [] s (jumpTo target s) :=
  fun r _ => readReg_jumpTo r target s

theorem onlyParts_jumpTo (target : Word) (s : State) : OnlyParts [.pc] s (jumpTo target s) := by
  intro p hp
  cases p with
  | pc => simp at hp
  | _ => simp [SamePart]

/-- A skip is a jump to one of two addresses (spec/30_encoding.md R54), so it leaves unchanged what a jump does. -/
theorem skipIf_eq_jumpTo (taken : Bool) (s : State) :
    skipIf taken s = jumpTo (if taken then s.pc + 4 else s.pc + 2) s := rfl

/-- An instruction that only applies Skip skips on whatever condition its test decides. -/
theorem skipsIf_of_exec {i : Instr} {s : State} {taken : Bool} {c : Prop}
    (hexec : exec i s = .next (skipIf taken s)) (htest : taken = true ↔ c) : SkipsIf i s c := by
  refine ⟨_, hexec, ?skips, ?falls, ?regs, ?parts⟩
  case skips =>
    intro hc
    simp [htest.mpr hc]
  case falls =>
    intro hc
    simp [mt htest.mp hc]
  case regs =>
    rw [skipIf_eq_jumpTo]
    exact onlyRegs_jumpTo _ s
  case parts =>
    rw [skipIf_eq_jumpTo]
    exact onlyParts_jumpTo _ s

/-! ## The instructions -/

theorem exec_jp (nnn : Lit12) (s : State) : exec (.jp nnn) s = .next (jumpTo (literal16 nnn) s) := rfl

theorem exec_seImm (x : Nib) (nn : Byte) (s : State) :
    exec (.seImm x nn) s = .next (skipIf (readReg x s == nn) s) := rfl

theorem exec_sneImm (x : Nib) (nn : Byte) (s : State) :
    exec (.sneImm x nn) s = .next (skipIf (readReg x s != nn) s) := rfl

/-- Settles O7: JP is one pc update, and zero extension keeps the literal's value. -/
theorem jpSetsPcToLiteral : Obligations.JpSetsPcToLiteral := by
  intro nnn s
  exact ⟨decodeWord_jp nnn, _, exec_jp nnn s, literal16_toNat nnn, onlyRegs_jumpTo _ s, onlyParts_jumpTo _ s⟩

/-- Settles O9: the Boolean test of SE decides equality. -/
theorem seImmSkipsOnEqual : Obligations.SeImmSkipsOnEqual := by
  intro x nn s
  exact ⟨decodeWord_seImm x nn, skipsIf_of_exec (exec_seImm x nn s) beq_iff_eq⟩

/-- Settles O10: the Boolean test of SNE decides inequality. -/
theorem sneImmSkipsOnUnequal : Obligations.SneImmSkipsOnUnequal := by
  intro x nn s
  exact ⟨decodeWord_sneImm x nn, skipsIf_of_exec (exec_sneImm x nn s) bne_iff_ne⟩

end Sys2Proof.Machine
end

section
/-! SUPPORT. The ALU instructions that write one register and no flag (spec/42_alu.md R72 to R77): their words, what a
register write followed by Next leaves unchanged, and the obligations that state them. -/

namespace Sys2Proof

theorem decodeWord_ldImm (x : Nib) (nn : Byte) : decodeWord (wordXNN 0x6#4 x nn) = .ok (.ldImm x nn) := by
  have hclass : opClass (decodeView (wordXNN 0x6#4 x nn)) = 0x6#4 := opClass_wordXNN _ _ _
  have hx : (decodeView (wordXNN 0x6#4 x nn)).x = x := by rw [decodeView_wordXNN]
  simp only [decodeWord, dispatch, hclass, hx, lowByte_wordXNN]

theorem decodeWord_addImm (x : Nib) (nn : Byte) : decodeWord (wordXNN 0x7#4 x nn) = .ok (.addImm x nn) := by
  have hclass : opClass (decodeView (wordXNN 0x7#4 x nn)) = 0x7#4 := opClass_wordXNN _ _ _
  have hx : (decodeView (wordXNN 0x7#4 x nn)).x = x := by rw [decodeView_wordXNN]
  simp only [decodeWord, dispatch, hclass, hx, lowByte_wordXNN]

/-- Class 8 goes on to the second dispatch level (spec/30_encoding.md R50). -/
theorem dispatch_of_class8 {v : View} (hclass : opClass v = 0x8#4) : dispatch v = dispatch8 v := by
  simp only [dispatch, hclass]

/-- The second level sees the three low nibbles apart, so for a literal n the instruction is found by evaluation. -/
theorem decodeWord_class8 (x y n : Nib) :
    decodeWord (wordXYN 0x8#4 x y n) =
      dispatch8 { op := wordXYN 0x8#4 x y n, x := x, y := y, nnn := x ++ y ++ n, n := n } := by
  rw [decodeWord, dispatch_of_class8 (opClass_wordXYN _ _ _ _), decodeView_wordXYN]

theorem decodeWord_ldReg (x y : Nib) : decodeWord (wordXYN 0x8#4 x y 0x0#4) = .ok (.ldReg x y) :=
  decodeWord_class8 x y 0x0#4

theorem decodeWord_orReg (x y : Nib) : decodeWord (wordXYN 0x8#4 x y 0x1#4) = .ok (.orReg x y) :=
  decodeWord_class8 x y 0x1#4

theorem decodeWord_andReg (x y : Nib) : decodeWord (wordXYN 0x8#4 x y 0x2#4) = .ok (.andReg x y) :=
  decodeWord_class8 x y 0x2#4

theorem decodeWord_xorReg (x y : Nib) : decodeWord (wordXYN 0x8#4 x y 0x3#4) = .ok (.xorReg x y) :=
  decodeWord_class8 x y 0x3#4

end Sys2Proof

namespace Sys2Proof.Machine

/-! ## A register write followed by Next -/

@[simp] theorem readReg_writeReg_same (r : Nib) (b : Byte) (s : State) : readReg r (writeReg r b s) = b := by
  rw [readReg_writeReg, if_pos rfl]

theorem onlyRegs_writeReg (r : Nib) (b : Byte) (s : State) : OnlyRegs [r] s (writeReg r b s) := by
  intro q hq
  have hne : q ≠ r := by simpa using hq
  rw [readReg_writeReg, if_neg hne]

theorem onlyParts_writeReg_nextPc (r : Nib) (b : Byte) (s : State) :
    OnlyParts [.pc] s (nextPc (writeReg r b s)) := by
  intro p hp
  cases p with
  | pc => simp at hp
  | _ => simp [SamePart]

/-- An instruction that only writes b to V[x] and applies Next has the shape WritesReg, whichever register x is. -/
theorem writesReg_of_exec {i : Instr} {s : State} {x : Nib} {b : Byte}
    (hexec : exec i s = .next (nextPc (writeReg x b s))) : WritesReg i s x b := by
  refine ⟨_, hexec, ?result, ?pc, ?regs, onlyParts_writeReg_nextPc x b s⟩
  case result => simp
  case pc => simp
  case regs =>
    intro q hq
    rw [readReg_nextPc, onlyRegs_writeReg x b s q hq]

/-! ## The instructions -/

theorem exec_ldImm (x : Nib) (nn : Byte) (s : State) :
    exec (.ldImm x nn) s = .next (nextPc (writeReg x nn s)) := rfl

theorem exec_addImm (x : Nib) (nn : Byte) (s : State) :
    exec (.addImm x nn) s = .next (nextPc (writeReg x (readReg x s + nn) s)) := rfl

theorem exec_ldReg (x y : Nib) (s : State) :
    exec (.ldReg x y) s = .next (nextPc (writeReg x (readReg y s) s)) := rfl

theorem exec_orReg (x y : Nib) (s : State) :
    exec (.orReg x y) s = .next (nextPc (writeReg x (readReg x s ||| readReg y s) s)) := rfl

theorem exec_andReg (x y : Nib) (s : State) :
    exec (.andReg x y) s = .next (nextPc (writeReg x (readReg x s &&& readReg y s) s)) := rfl

theorem exec_xorReg (x y : Nib) (s : State) :
    exec (.xorReg x y) s = .next (nextPc (writeReg x (readReg x s ^^^ readReg y s) s)) := rfl

/-- The sum of two bytes is the sum of their values, reduced mod 256. -/
theorem byte_add_eq_ofNat_mod (a b : Byte) : a + b = BitVec.ofNat 8 ((a.toNat + b.toNat) % 256) := by
  apply BitVec.eq_of_toNat_eq
  rw [BitVec.toNat_add, BitVec.toNat_ofNat, Nat.mod_mod]

/-- Settles O14: LD writes its literal and applies Next. -/
theorem ldImmWritesLiteral : Obligations.LdImmWritesLiteral := by
  intro x nn s
  exact ⟨decodeWord_ldImm x nn, writesReg_of_exec (exec_ldImm x nn s)⟩

/-- Settles O15: the machine's addition of bytes is the sum mod 256, and VF is written only as the destination. -/
theorem addImmAddsWithoutFlag : Obligations.AddImmAddsWithoutFlag := by
  intro x nn s
  have hwrites : WritesReg (.addImm x nn) s x (readReg x s + nn) := writesReg_of_exec (exec_addImm x nn s)
  rw [byte_add_eq_ofNat_mod] at hwrites
  exact ⟨decodeWord_addImm x nn, hwrites⟩

/-- Settles O16: LD reads V[Y] before it writes V[X]. -/
theorem ldRegCopies : Obligations.LdRegCopies := by
  intro x y s
  exact ⟨decodeWord_ldReg x y, writesReg_of_exec (exec_ldReg x y s)⟩

/-- Settles O17: each of OR, AND and XOR is one register write and Next, so no flag is written beside the result. -/
theorem bitwiseOpsWriteResultWithoutFlag : Obligations.BitwiseOpsWriteResultWithoutFlag := by
  intro x y s
  exact ⟨decodeWord_orReg x y, decodeWord_andReg x y, decodeWord_xorReg x y,
    writesReg_of_exec (exec_orReg x y s), writesReg_of_exec (exec_andReg x y s),
    writesReg_of_exec (exec_xorReg x y s)⟩

end Sys2Proof.Machine
end

section
/-! SUPPORT. LD I and LD F (spec/43_index_memory.md R84, R85): their words, what a write to I followed by Next leaves
unchanged, and the obligations that state them. -/

namespace Sys2Proof

theorem decodeWord_ldI (nnn : Lit12) : decodeWord (wordNNN 0xA#4 nnn) = .ok (.ldI nnn) := by
  have hclass : opClass (decodeView (wordNNN 0xA#4 nnn)) = 0xA#4 := opClass_wordNNN _ _
  have hnnn : (decodeView (wordNNN 0xA#4 nnn)).nnn = nnn := by rw [decodeView_wordNNN]
  simp only [decodeWord, dispatch, hclass, hnnn]

theorem decodeView_wordXNN_x (c x : Nib) (nn : Byte) : (decodeView (wordXNN c x nn)).x = x := by
  rw [decodeView_wordXNN]

/-- Class F goes on to the second dispatch level (spec/30_encoding.md R50). -/
theorem dispatch_of_classF {v : View} (hclass : opClass v = 0xF#4) : dispatch v = dispatchF v := by
  rw [dispatch, hclass]
  rfl

theorem decodeWord_classF (x : Nib) (nn : Byte) :
    decodeWord (wordXNN 0xF#4 x nn) = dispatchF (decodeView (wordXNN 0xF#4 x nn)) :=
  dispatch_of_classF (opClass_wordXNN _ _ _)

theorem decodeWord_ldF (x : Nib) : decodeWord (wordXNN 0xF#4 x 0x29#8) = .ok (.ldF x) := by
  simp only [decodeWord_classF, dispatchF, lowByte_wordXNN, decodeView_wordXNN_x]

end Sys2Proof

namespace Sys2Proof.Machine

/-! ## A write to I followed by Next -/

theorem onlyRegs_setIdx_nextPc (w : Word) (s : State) : OnlyRegs [] s (nextPc (setIdx w s)) := by
  intro r _
  simp

theorem onlyParts_setIdx_nextPc (w : Word) (s : State) : OnlyParts [.pc, .idx] s (nextPc (setIdx w s)) := by
  intro p hp
  cases p with
  | pc | idx => simp at hp
  | _ => simp [SamePart]

/-! ## The instructions -/

theorem exec_ldI (nnn : Lit12) (s : State) : exec (.ldI nnn) s = .next (nextPc (setIdx (literal16 nnn) s)) := rfl

theorem exec_ldF (x : Nib) (s : State) :
    exec (.ldF x) s = .next (nextPc (setIdx (byte16 (readReg x s) * 5) s)) := rfl

theorem byte16_toNat (b : Byte) : (byte16 b).toNat = b.toNat := BitVec.toNat_setWidth_of_le (by decide)

/-- The address of a glyph does not wrap: five times a byte stays below 2^16. -/
theorem byte16_mul_five_toNat (b : Byte) : (byte16 b * 5).toNat = b.toNat * 5 := by
  have hb : b.toNat < 256 := b.isLt
  calc (byte16 b * 5).toNat
      = (byte16 b).toNat * 5 % 65536 := BitVec.toNat_mul _ _
    _ = b.toNat * 5 := by rw [byte16_toNat, Nat.mod_eq_of_lt (by omega)]

/-- Settles O24: LD I is one write to I, and zero extension keeps the literal's value. -/
theorem ldISetsIndex : Obligations.LdISetsIndex := by
  intro nnn s
  exact ⟨decodeWord_ldI nnn, _, exec_ldI nnn s, literal16_toNat nnn, rfl,
    onlyRegs_setIdx_nextPc _ s, onlyParts_setIdx_nextPc _ s⟩

/-- Settles O25: LD F is one write to I, and the product of the whole byte by five does not wrap. -/
theorem ldFPointsAtGlyph : Obligations.LdFPointsAtGlyph := by
  intro x s
  exact ⟨decodeWord_ldF x, _, exec_ldF x s, byte16_mul_five_toNat _, rfl,
    onlyRegs_setIdx_nextPc _ s, onlyParts_setIdx_nextPc _ s⟩

end Sys2Proof.Machine
end

section
/-! SUPPORT. The cells that I + 0, I + 1, … reach, and the two instructions that store there: LD B and LD [I], Vx
(spec/43_index_memory.md R86, R88). -/

namespace Sys2Proof

theorem decodeWord_ldB (x : Nib) : decodeWord (wordXNN 0xF#4 x 0x33#8) = .ok (.ldB x) := by
  simp only [decodeWord_classF, dispatchF, lowByte_wordXNN, decodeView_wordXNN_x]

theorem decodeWord_saveRegs (x : Nib) : decodeWord (wordXNN 0xF#4 x 0x55#8) = .ok (.saveRegs x) := by
  simp only [decodeWord_classF, dispatchF, lowByte_wordXNN, decodeView_wordXNN_x]

end Sys2Proof

namespace Sys2Proof.Machine

/-! ## The cells from I on -/

/-- 4096 divides 2^16, so forming I + k as a u16 first does not show in the cell (spec/20_memory.md R29). -/
theorem cellOf_indexed (k : Nat) (s : State) : cellOf (indexed k s) = (s.idx.toNat + k) % 4096 := by
  rw [cellOf, indexed, BitVec.toNat_add, BitVec.toNat_ofNat, Config.memorySize]
  omega

/-- No block shorter than memory meets itself, even where it wraps. -/
theorem cellOf_indexed_inj {j k : Nat} (hj : j < 4096) (hk : k < 4096) (s : State) :
    cellOf (indexed j s) = cellOf (indexed k s) ↔ j = k := by
  rw [cellOf_indexed, cellOf_indexed]
  omega

/-! ## What a change of memory alone, followed by Next, leaves unchanged -/

theorem onlyRegs_nextPc_of_mem {s t : State} (h : t = { s with mem := t.mem }) : OnlyRegs [] s (nextPc t) := by
  intro r _
  rw [h]
  rfl

theorem onlyParts_nextPc_of_mem {s t : State} (h : t = { s with mem := t.mem }) :
    OnlyParts [.pc, .mem] s (nextPc t) := by
  intro p hp
  rw [h]
  cases p with
  | pc | mem => simp at hp
  | keys => exact fun _ => rfl
  | _ => simp [SamePart]

/-! ## LD B -/

/-- The state after the three stores of LD B, each at its offset from the old I. -/
def storeDigits (a : Byte) (s : State) : State :=
  memWrite (indexed 2 s) (units a) (memWrite (indexed 1 s) (tens a) (memWrite (indexed 0 s) (hundreds a) s))

theorem exec_ldB (x : Nib) (s : State) : exec (.ldB x) s = .next (nextPc (storeDigits (readReg x s) s)) := rfl

theorem memRead_storeDigits (c : Word) (a : Byte) (s : State) :
    memRead c (storeDigits a s) =
      if cellOf c = cellOf (indexed 2 s) then units a
      else if cellOf c = cellOf (indexed 1 s) then tens a
      else if cellOf c = cellOf (indexed 0 s) then hundreds a
      else memRead c s := by
  simp only [storeDigits, memRead_memWrite]

theorem hundreds_toNat (a : Byte) : (hundreds a).toNat = a.toNat / 100 := BitVec.toNat_udiv

theorem tens_toNat (a : Byte) : (tens a).toNat = a.toNat / 10 % 10 := by
  rw [tens, BitVec.toNat_umod, BitVec.toNat_udiv]
  rfl

theorem units_toNat (a : Byte) : (units a).toNat = a.toNat % 10 := BitVec.toNat_umod

/-- Settles O26: the three cells are apart, so each keeps its own digit. -/
theorem ldBStoresDecimalDigits : Obligations.LdBStoresDecimalDigits := by
  intro x s
  refine ⟨decodeWord_ldB x, _, exec_ldB x s, ?hundreds, ?tens, ?units, ?other, rfl,
    onlyRegs_nextPc_of_mem rfl, onlyParts_nextPc_of_mem rfl⟩
  case hundreds => simp [memRead_storeDigits, cellOf_indexed_inj, hundreds_toNat]
  case tens => simp [memRead_storeDigits, cellOf_indexed_inj, tens_toNat]
  case units => simp [memRead_storeDigits, units_toNat]
  case other =>
    intro a ha
    simp [memRead_storeDigits, ha]

/-! ## LD [I], Vx -/

theorem exec_saveRegs (x : Nib) (s : State) :
    exec (.saveRegs x) s = .next (nextPc (storeRegs (x.toNat + 1) s)) := rfl

theorem regNumber_toNat (r : Nib) : regNumber r.toNat = r := by
  rw [regNumber, BitVec.ofNat_toNat, BitVec.setWidth_eq]

theorem storeRegs_succ_round (n : Nat) (s : State) :
    storeRegs (n + 1) s =
      memWrite (indexed n (storeRegs n s)) (readReg (regNumber n) (storeRegs n s)) (storeRegs n s) := by
  simp only [storeRegs, List.range_succ, List.foldl_append, List.foldl_cons, List.foldl_nil]

/-- The loop changes memory alone. -/
theorem storeRegs_eq (n : Nat) (s : State) : storeRegs n s = { s with mem := (storeRegs n s).mem } := by
  induction n with
  | zero => rfl
  | succ n ih =>
    rw [storeRegs_succ_round]
    exact congrArg (memWrite _ _) ih

/-- Every round stores the old V[n] at the old I + n, since no round writes a register or I. -/
theorem storeRegs_succ (n : Nat) (s : State) :
    storeRegs (n + 1) s = memWrite (indexed n s) (readReg (regNumber n) s) (storeRegs n s) := by
  have hidx : indexed n (storeRegs n s) = indexed n s := by rw [storeRegs_eq]; rfl
  have hreg : readReg (regNumber n) (storeRegs n s) = readReg (regNumber n) s := by rw [storeRegs_eq]; rfl
  rw [storeRegs_succ_round, hidx, hreg]

theorem memRead_storeRegs_other {n : Nat} {a : Word} {s : State}
    (ha : ∀ k < n, cellOf a ≠ cellOf (indexed k s)) : memRead a (storeRegs n s) = memRead a s := by
  induction n with
  | zero => rfl
  | succ n ih =>
    rw [storeRegs_succ, memRead_memWrite, if_neg (ha n (by omega))]
    exact ih fun k hk => ha k (by omega)

/-- A later round of the loop reaches another cell, so what round k stored stays. -/
theorem memRead_storeRegs_indexed {n k : Nat} (hn : n ≤ 4096) (hk : k < n) (s : State) :
    memRead (indexed k s) (storeRegs n s) = readReg (regNumber k) s := by
  induction n with
  | zero => omega
  | succ n ih =>
    have hcell : cellOf (indexed k s) = cellOf (indexed n s) ↔ k = n := cellOf_indexed_inj (by omega) (by omega) s
    rw [storeRegs_succ, memRead_memWrite]
    by_cases hkn : k = n
    · rw [if_pos (hcell.mpr hkn), hkn]
    · rw [if_neg (mt hcell.mp hkn)]
      exact ih (by omega) (by omega)

/-- Settles O28: the loop stores each register at its own cell and changes nothing but memory. -/
theorem saveRegsStoresBlock : Obligations.SaveRegsStoresBlock := by
  intro x s
  have hx : x.toNat < 16 := x.toNat_lt
  have hmem := storeRegs_eq (x.toNat + 1) s
  refine ⟨decodeWord_saveRegs x, _, exec_saveRegs x s, ?block, ?other, ?pc,
    onlyRegs_nextPc_of_mem hmem, onlyParts_nextPc_of_mem hmem⟩
  case block =>
    intro r hr
    have hr' : r.toNat ≤ x.toNat := hr
    rw [memRead_nextPc, memRead_storeRegs_indexed (by omega) (by omega), regNumber_toNat]
  case other =>
    intro a ha
    rw [memRead_nextPc, memRead_storeRegs_other fun k hk => ha k (by omega)]
  case pc =>
    rw [hmem]
    rfl

end Sys2Proof.Machine
end

section
/-! SUPPORT. LD Vx, [I] (spec/43_index_memory.md R89): its word, what its loop leaves in each register, and the
obligation that states it. -/

namespace Sys2Proof

theorem decodeWord_loadRegs (x : Nib) : decodeWord (wordXNN 0xF#4 x 0x65#8) = .ok (.loadRegs x) := by
  simp only [decodeWord_classF, dispatchF, lowByte_wordXNN, decodeView_wordXNN_x]

end Sys2Proof

namespace Sys2Proof.Machine

theorem exec_loadRegs (x : Nib) (s : State) :
    exec (.loadRegs x) s = .next (nextPc (fillRegs (x.toNat + 1) s)) := rfl

theorem fillRegs_succ_round (n : Nat) (s : State) :
    fillRegs (n + 1) s =
      writeReg (regNumber n) (memRead (indexed n (fillRegs n s)) (fillRegs n s)) (fillRegs n s) := by
  simp only [fillRegs, List.range_succ, List.foldl_append, List.foldl_cons, List.foldl_nil]

/-- The loop changes the registers alone. -/
theorem fillRegs_eq (n : Nat) (s : State) : fillRegs n s = { s with v := (fillRegs n s).v } := by
  induction n with
  | zero => rfl
  | succ n ih =>
    rw [fillRegs_succ_round]
    exact congrArg (writeReg _ _) ih

/-- Every round loads V[n] from the old I + n of the old memory, since no round writes memory or I. -/
theorem fillRegs_succ (n : Nat) (s : State) :
    fillRegs (n + 1) s = writeReg (regNumber n) (memRead (indexed n s) s) (fillRegs n s) := by
  have hread : memRead (indexed n (fillRegs n s)) (fillRegs n s) = memRead (indexed n s) s := by
    rw [fillRegs_eq]; rfl
  rw [fillRegs_succ_round, hread]

/-- Below 16 the loop counter names the register of its own number. -/
theorem eq_regNumber_iff {n : Nat} (hn : n < 16) (r : Nib) : r = regNumber n ↔ r.toNat = n := by
  rw [← BitVec.toNat_inj, regNumber, BitVec.toNat_ofNat, Nat.mod_eq_of_lt hn]

theorem readReg_fillRegs {n : Nat} (hn : n ≤ 16) (r : Nib) (s : State) :
    readReg r (fillRegs n s) = if r.toNat < n then memRead (indexed r.toNat s) s else readReg r s := by
  induction n with
  | zero => rfl
  | succ n ih =>
    rw [fillRegs_succ, readReg_writeReg, ih (by omega)]
    by_cases hrn : r.toNat = n
    · rw [if_pos ((eq_regNumber_iff (by omega) r).mpr hrn), if_pos (by omega), hrn]
    · rw [if_neg (mt (eq_regNumber_iff (by omega) r).mp hrn)]
      have hlt : r.toNat < n + 1 ↔ r.toNat < n := by omega
      simp only [hlt]

theorem onlyParts_nextPc_fillRegs (n : Nat) (s : State) : OnlyParts [.pc] s (nextPc (fillRegs n s)) := by
  intro p hp
  rw [fillRegs_eq]
  cases p with
  | pc => simp at hp
  | mem | keys => exact fun _ => rfl
  | _ => simp [SamePart]

/-- Settles O29: each register up to X is loaded once, from the memory and the I that the loop began with. -/
theorem loadRegsReadsBlock : Obligations.LoadRegsReadsBlock := by
  intro x s
  have hx : x.toNat + 1 ≤ 16 := x.toNat_lt
  refine ⟨decodeWord_loadRegs x, _, exec_loadRegs x s, ?block, ?above, ?pc, onlyParts_nextPc_fillRegs _ s⟩
  case block =>
    intro r hr
    have hr' : r.toNat < x.toNat + 1 := Nat.lt_succ_of_le hr
    rw [readReg_nextPc, readReg_fillRegs hx, if_pos hr']
  case above =>
    intro r hr
    have hr' : ¬ r.toNat < x.toNat + 1 := fun h => hr (Nat.le_of_lt_succ h)
    rw [readReg_nextPc, readReg_fillRegs hx, if_neg hr']
  case pc =>
    rw [fillRegs_eq]
    rfl

end Sys2Proof.Machine
end

section
/-! SUPPORT. The instructions that copy between a register and a timer (spec/44_timers_keys.md R92 to R94): their words,
what a timer write followed by Next leaves unchanged, and the obligations that state them. -/

namespace Sys2Proof

theorem decodeWord_ldVxDt (x : Nib) : decodeWord (wordXNN 0xF#4 x 0x07#8) = .ok (.ldVxDt x) := by
  simp only [decodeWord_classF, dispatchF, lowByte_wordXNN, decodeView_wordXNN_x]

theorem decodeWord_ldDtVx (x : Nib) : decodeWord (wordXNN 0xF#4 x 0x15#8) = .ok (.ldDtVx x) := by
  simp only [decodeWord_classF, dispatchF, lowByte_wordXNN, decodeView_wordXNN_x]

theorem decodeWord_ldStVx (x : Nib) : decodeWord (wordXNN 0xF#4 x 0x18#8) = .ok (.ldStVx x) := by
  simp only [decodeWord_classF, dispatchF, lowByte_wordXNN, decodeView_wordXNN_x]

end Sys2Proof

namespace Sys2Proof.Machine

/-! ## A timer write followed by Next -/

/-- An update that leaves the register file in place leaves every register unchanged, with Next after it too. -/
theorem onlyRegs_nextPc_of_v {s t : State} (h : t.v = s.v) : OnlyRegs [] s (nextPc t) := by
  intro r _
  simp only [readReg, nextPc_v, h]

theorem onlyParts_setDt_nextPc (b : Byte) (s : State) : OnlyParts [.pc, .dt] s (nextPc (setDt b s)) := by
  intro p hp
  cases p with
  | pc | dt => simp at hp
  | _ => simp [SamePart]

theorem onlyParts_setSt_nextPc (b : Byte) (s : State) : OnlyParts [.pc, .st] s (nextPc (setSt b s)) := by
  intro p hp
  cases p with
  | pc | st => simp at hp
  | _ => simp [SamePart]

/-! ## The instructions -/

theorem exec_ldVxDt (x : Nib) (s : State) : exec (.ldVxDt x) s = .next (nextPc (writeReg x s.dt s)) := rfl

theorem exec_ldDtVx (x : Nib) (s : State) : exec (.ldDtVx x) s = .next (nextPc (setDt (readReg x s) s)) := rfl

theorem exec_ldStVx (x : Nib) (s : State) : exec (.ldStVx x) s = .next (nextPc (setSt (readReg x s) s)) := rfl

/-- Settles O33: LD Vx, DT is one register write and Next, and neither writes a timer. -/
theorem ldVxDtReadsDelayTimer : Obligations.LdVxDtReadsDelayTimer := by
  intro x s
  exact ⟨decodeWord_ldVxDt x, writesReg_of_exec (exec_ldVxDt x s)⟩

/-- Settles O34: each timer write is one update of its own timer and Next. -/
theorem timerWritesCopyRegister : Obligations.TimerWritesCopyRegister := by
  intro x s
  refine ⟨decodeWord_ldDtVx x, decodeWord_ldStVx x, ⟨_, exec_ldDtVx x s, ?delay⟩, ⟨_, exec_ldStVx x s, ?sound⟩⟩
  case delay =>
    exact ⟨setDt_dt _ s, rfl, onlyRegs_nextPc_of_v (setDt_v _ s), onlyParts_setDt_nextPc _ s⟩
  case sound =>
    exact ⟨setSt_st _ s, rfl, onlyRegs_nextPc_of_v (setSt_v _ s), onlyParts_setSt_nextPc _ s⟩

end Sys2Proof.Machine
end

section
/-! SUPPORT. The timer clock (spec/60_exceptions.md R108): what a tick does to each timer and what it leaves unchanged,
and the obligation that states it. -/

namespace Sys2Proof.Machine

/-! ## One tick -/

@[simp] theorem tick_dt (s : State) : (tick s).dt = countDown s.dt := rfl
@[simp] theorem tick_st (s : State) : (tick s).st = countDown s.st := rfl

@[simp] theorem countDown_zero : countDown 0x00 = 0x00 := rfl

theorem countDown_of_pos {t : Byte} (hpos : t > 0) : countDown t = t - 1 := if_pos hpos

/-- The test for 0 keeps the subtraction of bytes from wrapping, so a tick is the subtraction that stops at 0. -/
theorem countDown_toNat (t : Byte) : (countDown t).toNat = t.toNat - 1 := by
  by_cases hpos : t > 0
  · rw [countDown_of_pos hpos]
    exact BitVec.toNat_sub_of_le (BitVec.le_def.mpr (BitVec.lt_def.mp hpos))
  · have hzero : t = 0x00 := BitVec.le_zero_iff.mp (BitVec.not_lt.mp hpos)
    rw [hzero]
    rfl

theorem onlyRegs_tick (s : State) : OnlyRegs [] s (tick s) := fun _ _ => rfl

/-- A tick is a write to the two timers, so every other part reads the same field. -/
theorem onlyParts_tick (s : State) : OnlyParts [.dt, .st] s (tick s) := by
  intro p hp
  cases p with
  | dt | st => simp at hp
  | host => exact ⟨rfl, rfl⟩
  | stack | mem | keys => exact fun _ => rfl
  | fb => exact fun _ _ => rfl
  | _ => rfl

/-- Settles O53: each timer counts down on its own and stops at 0, and a tick writes the timers alone. -/
theorem tickDecrementsNonzeroTimers : Obligations.TickDecrementsNonzeroTimers := by
  intro s
  refine ⟨fun _ => countDown_toNat s.dt, ?delayAtZero, fun _ => countDown_toNat s.st, ?soundAtZero,
    onlyRegs_tick s, onlyParts_tick s⟩
  case delayAtZero =>
    intro hdt
    rw [tick_dt, hdt, countDown_zero]
  case soundAtZero =>
    intro hst
    rw [tick_st, hst, countDown_zero]

end Sys2Proof.Machine
end

section
/-! SUPPORT. The words of the instructions that the sections above do not decode, and the four statements on encodings
(spec/30_encoding.md R47 to R52, R57). -/

namespace Sys2Proof

/-! ## The fields that the dispatcher reads -/

theorem decodeView_wordNNN_nnn (c : Nib) (nnn : Lit12) : (decodeView (wordNNN c nnn)).nnn = nnn := by
  rw [decodeView_wordNNN]

theorem decodeView_wordXYN_x (c x y n : Nib) : (decodeView (wordXYN c x y n)).x = x := by
  rw [decodeView_wordXYN]

theorem decodeView_wordXYN_y (c x y n : Nib) : (decodeView (wordXYN c x y n)).y = y := by
  rw [decodeView_wordXYN]

theorem decodeView_wordXYN_n (c x y n : Nib) : (decodeView (wordXYN c x y n)).n = n := by
  rw [decodeView_wordXYN]

theorem setWidth_eight_eq_extractLsb' (nnn : Lit12) : nnn.setWidth 8 = nnn.extractLsb' 0 8 := by
  rw [BitVec.setWidth_eq_extractLsb' (by decide)]

/-- NN, cut from NNN, is the low byte of the word (spec/30_encoding.md R45). -/
theorem lowByte_decodeView (w : Word) : lowByte (decodeView w) = w.extractLsb' 0 8 := by
  ext i hi
  simp [lowByte, decodeView]

/-! ## Words of a nibble and a 12-bit literal -/

/-- A SYS term is well formed exactly when its low byte selects neither CLS nor RET (spec/30_encoding.md R50). -/
theorem wellFormed_sys_iff (nnn : Lit12) :
    wellFormed (.sys nnn) = true ↔ nnn.setWidth 8 ≠ 0xE0#8 ∧ nnn.setWidth 8 ≠ 0xEE#8 := by
  simp only [wellFormed, Bool.and_eq_true, bne_iff_ne]

theorem dispatch0_of_sys {v : View} (hcls : lowByte v ≠ 0xE0#8) (hret : lowByte v ≠ 0xEE#8) :
    dispatch0 v = .sys v.nnn := by
  unfold dispatch0
  split
  · contradiction
  · contradiction
  · rfl

theorem dispatch_of_class0 {v : View} (hclass : opClass v = 0x0#4) : dispatch v = .ok (dispatch0 v) := by
  simp only [dispatch, hclass]

theorem decodeWord_sys {nnn : Lit12} (hnnn : wellFormed (.sys nnn) = true) :
    decodeWord (wordNNN 0x0#4 nnn) = .ok (.sys nnn) := by
  obtain ⟨hcls, hret⟩ := (wellFormed_sys_iff nnn).mp hnnn
  rw [← lowByte_wordNNN 0x0#4 nnn] at hcls hret
  rw [decodeWord, dispatch_of_class0 (opClass_wordNNN _ _), dispatch0_of_sys hcls hret, decodeView_wordNNN_nnn]

theorem decodeWord_call (nnn : Lit12) : decodeWord (wordNNN 0x2#4 nnn) = .ok (.call nnn) := by
  simp only [decodeWord, dispatch, opClass_wordNNN, decodeView_wordNNN_nnn]

theorem decodeWord_jpV0 (nnn : Lit12) : decodeWord (wordNNN 0xB#4 nnn) = .ok (.jpV0 nnn) := by
  simp only [decodeWord, dispatch, opClass_wordNNN, decodeView_wordNNN_nnn]

/-! ## Words of two nibbles and a byte -/

theorem decodeWord_ret (ign : Nib) : decodeWord (wordXNN 0x0#4 ign 0xEE#8) = .ok (.ret ign) := by
  simp only [decodeWord, dispatch_of_class0 (opClass_wordXNN _ _ _), dispatch0, lowByte_wordXNN,
    decodeView_wordXNN_x]

theorem decodeWord_rnd (x : Nib) (nn : Byte) : decodeWord (wordXNN 0xC#4 x nn) = .ok (.rnd x nn) := by
  simp only [decodeWord, dispatch, opClass_wordXNN, decodeView_wordXNN_x, lowByte_wordXNN]

/-- Class E goes on to the second dispatch level (spec/30_encoding.md R50). -/
theorem dispatch_of_classE {v : View} (hclass : opClass v = 0xE#4) : dispatch v = dispatchE v := by
  simp only [dispatch, hclass]

theorem decodeWord_skp (x : Nib) : decodeWord (wordXNN 0xE#4 x 0x9E#8) = .ok (.skp x) := by
  simp only [decodeWord, dispatch_of_classE (opClass_wordXNN _ _ _), dispatchE, lowByte_wordXNN,
    decodeView_wordXNN_x]

theorem decodeWord_sknp (x : Nib) : decodeWord (wordXNN 0xE#4 x 0xA1#8) = .ok (.sknp x) := by
  simp only [decodeWord, dispatch_of_classE (opClass_wordXNN _ _ _), dispatchE, lowByte_wordXNN,
    decodeView_wordXNN_x]

theorem decodeWord_ldVxK (x : Nib) : decodeWord (wordXNN 0xF#4 x 0x0A#8) = .ok (.ldVxK x) := by
  simp only [decodeWord_classF, dispatchF, lowByte_wordXNN, decodeView_wordXNN_x]

theorem decodeWord_addI (x : Nib) : decodeWord (wordXNN 0xF#4 x 0x1E#8) = .ok (.addI x) := by
  simp only [decodeWord_classF, dispatchF, lowByte_wordXNN, decodeView_wordXNN_x]

/-! ## Words of four nibbles -/

theorem decodeWord_seReg (x y ign : Nib) : decodeWord (wordXYN 0x5#4 x y ign) = .ok (.seReg x y ign) := by
  simp only [decodeWord, dispatch, opClass_wordXYN, decodeView_wordXYN_x, decodeView_wordXYN_y,
    decodeView_wordXYN_n]

theorem decodeWord_sneReg (x y ign : Nib) : decodeWord (wordXYN 0x9#4 x y ign) = .ok (.sneReg x y ign) := by
  simp only [decodeWord, dispatch, opClass_wordXYN, decodeView_wordXYN_x, decodeView_wordXYN_y,
    decodeView_wordXYN_n]

theorem decodeWord_drw (x y n : Nib) : decodeWord (wordXYN 0xD#4 x y n) = .ok (.drw x y n) := by
  simp only [decodeWord, dispatch, opClass_wordXYN, decodeView_wordXYN_x, decodeView_wordXYN_y,
    decodeView_wordXYN_n]

theorem decodeWord_addReg (x y : Nib) : decodeWord (wordXYN 0x8#4 x y 0x4#4) = .ok (.addReg x y) :=
  decodeWord_class8 x y 0x4#4

theorem decodeWord_subReg (x y : Nib) : decodeWord (wordXYN 0x8#4 x y 0x5#4) = .ok (.subReg x y) :=
  decodeWord_class8 x y 0x5#4

theorem decodeWord_shr (x y : Nib) : decodeWord (wordXYN 0x8#4 x y 0x6#4) = .ok (.shr x y) :=
  decodeWord_class8 x y 0x6#4

theorem decodeWord_subnReg (x y : Nib) : decodeWord (wordXYN 0x8#4 x y 0x7#4) = .ok (.subnReg x y) :=
  decodeWord_class8 x y 0x7#4

theorem decodeWord_shl (x y : Nib) : decodeWord (wordXYN 0x8#4 x y 0xE#4) = .ok (.shl x y) :=
  decodeWord_class8 x y 0xE#4

/-! ## Decoding the encoder's words -/

/-- Settles O36: each constructor's word carries its class, its sub-code and its operands; SYS alone needs to be well
formed. -/
theorem decodeReadsEncode : Obligations.DecodeReadsEncode := by
  intro i hwf
  cases i with
  | sys nnn => exact decodeWord_sys hwf
  | cls ign => exact decodeWord_cls ign
  | ret ign => exact decodeWord_ret ign
  | jp nnn => exact decodeWord_jp nnn
  | call nnn => exact decodeWord_call nnn
  | seImm x nn => exact decodeWord_seImm x nn
  | sneImm x nn => exact decodeWord_sneImm x nn
  | seReg x y ign => exact decodeWord_seReg x y ign
  | ldImm x nn => exact decodeWord_ldImm x nn
  | addImm x nn => exact decodeWord_addImm x nn
  | ldReg x y => exact decodeWord_ldReg x y
  | orReg x y => exact decodeWord_orReg x y
  | andReg x y => exact decodeWord_andReg x y
  | xorReg x y => exact decodeWord_xorReg x y
  | addReg x y => exact decodeWord_addReg x y
  | subReg x y => exact decodeWord_subReg x y
  | shr x y => exact decodeWord_shr x y
  | subnReg x y => exact decodeWord_subnReg x y
  | shl x y => exact decodeWord_shl x y
  | sneReg x y ign => exact decodeWord_sneReg x y ign
  | ldI nnn => exact decodeWord_ldI nnn
  | jpV0 nnn => exact decodeWord_jpV0 nnn
  | rnd x nn => exact decodeWord_rnd x nn
  | drw x y n => exact decodeWord_drw x y n
  | skp x => exact decodeWord_skp x
  | sknp x => exact decodeWord_sknp x
  | ldVxDt x => exact decodeWord_ldVxDt x
  | ldVxK x => exact decodeWord_ldVxK x
  | ldDtVx x => exact decodeWord_ldDtVx x
  | ldStVx x => exact decodeWord_ldStVx x
  | addI x => exact decodeWord_addI x
  | ldF x => exact decodeWord_ldF x
  | ldB x => exact decodeWord_ldB x
  | saveRegs x => exact decodeWord_saveRegs x
  | loadRegs x => exact decodeWord_loadRegs x

/-! ## Encoding the decoder's instructions -/

/-- i is a well-formed reading of w: what every branch of the dispatcher has to answer. -/
def Reads (w : Word) (i : Instr) : Prop := wellFormed i = true ∧ encode i = w

theorem wordNNN_of_class {w : Word} {c : Nib} (hclass : opClass (decodeView w) = c) :
    wordNNN c (decodeView w).nnn = w := by
  rw [← hclass, wordNNN_fields]

theorem wordXNN_of_class {w : Word} {c : Nib} (hclass : opClass (decodeView w) = c) :
    wordXNN c (decodeView w).x (lowByte (decodeView w)) = w := by
  rw [← hclass, wordXNN_fields]

theorem wordXYN_of_class {w : Word} {c : Nib} (hclass : opClass (decodeView w) = c) :
    wordXYN c (decodeView w).x (decodeView w).y (decodeView w).n = w := by
  rw [← hclass, wordXYN_fields]

theorem wordXNN_of_lowByte {w : Word} {c : Nib} {nn : Byte} (hclass : opClass (decodeView w) = c)
    (hlow : lowByte (decodeView w) = nn) : wordXNN c (decodeView w).x nn = w := by
  rw [← hlow, wordXNN_of_class hclass]

theorem wordXYN_of_n {w : Word} {c n : Nib} (hclass : opClass (decodeView w) = c) (hn : (decodeView w).n = n) :
    wordXYN c (decodeView w).x (decodeView w).y n = w := by
  rw [← hn, wordXYN_of_class hclass]

theorem reads_dispatch0 {w : Word} (hclass : opClass (decodeView w) = 0x0#4) :
    Reads w (dispatch0 (decodeView w)) := by
  unfold dispatch0
  split
  case h_1 hlow => exact ⟨rfl, wordXNN_of_lowByte hclass hlow⟩
  case h_2 hlow => exact ⟨rfl, wordXNN_of_lowByte hclass hlow⟩
  case h_3 hcls hret =>
    refine ⟨(wellFormed_sys_iff _).mpr ?_, wordNNN_of_class hclass⟩
    rw [setWidth_eight_eq_extractLsb']
    exact ⟨hcls, hret⟩

theorem reads_of_dispatch8 {w : Word} {i : Instr} (hclass : opClass (decodeView w) = 0x8#4)
    (hi : dispatch8 (decodeView w) = .ok i) : Reads w i := by
  unfold dispatch8 at hi
  split at hi
  case h_10 => cases hi
  all_goals
    obtain rfl := Except.ok.inj hi
    exact ⟨rfl, wordXYN_of_n hclass ‹_›⟩

theorem reads_of_dispatchE {w : Word} {i : Instr} (hclass : opClass (decodeView w) = 0xE#4)
    (hi : dispatchE (decodeView w) = .ok i) : Reads w i := by
  unfold dispatchE at hi
  split at hi
  case h_3 => cases hi
  all_goals
    obtain rfl := Except.ok.inj hi
    exact ⟨rfl, wordXNN_of_lowByte hclass ‹_›⟩

theorem reads_of_dispatchF {w : Word} {i : Instr} (hclass : opClass (decodeView w) = 0xF#4)
    (hi : dispatchF (decodeView w) = .ok i) : Reads w i := by
  unfold dispatchF at hi
  split at hi
  case h_10 => cases hi
  all_goals
    obtain rfl := Except.ok.inj hi
    exact ⟨rfl, wordXNN_of_lowByte hclass ‹_›⟩

/-- The classes are the 16 nibbles, so what the first fifteen branches leave over is class F. -/
theorem nib_eq_F {c : Nib} (h0 : c ≠ 0x0#4) (h1 : c ≠ 0x1#4) (h2 : c ≠ 0x2#4) (h3 : c ≠ 0x3#4) (h4 : c ≠ 0x4#4)
    (h5 : c ≠ 0x5#4) (h6 : c ≠ 0x6#4) (h7 : c ≠ 0x7#4) (h8 : c ≠ 0x8#4) (h9 : c ≠ 0x9#4) (hA : c ≠ 0xA#4)
    (hB : c ≠ 0xB#4) (hC : c ≠ 0xC#4) (hD : c ≠ 0xD#4) (hE : c ≠ 0xE#4) : c = 0xF#4 := by
  bv_omega

theorem reads_of_decodeWord {w : Word} {i : Instr} (hi : decodeWord w = .ok i) : Reads w i := by
  unfold decodeWord dispatch at hi
  split at hi
  case h_9 h8 => exact reads_of_dispatch8 h8 hi
  case h_15 hE => exact reads_of_dispatchE hE hi
  case h_16 =>
    have hF : opClass (decodeView w) = 0xF#4 := by apply nib_eq_F <;> assumption
    exact reads_of_dispatchF hF hi
  all_goals obtain rfl := Except.ok.inj hi
  case h_1 h0 => exact reads_dispatch0 h0
  case h_2 hc | h_3 hc | h_11 hc | h_12 hc => exact ⟨rfl, wordNNN_of_class hc⟩
  case h_6 hc | h_10 hc | h_14 hc => exact ⟨rfl, wordXYN_of_class hc⟩
  all_goals exact ⟨rfl, wordXNN_of_class ‹_›⟩

/-- Settles O37: in every branch the operands are the fields of the word, so the encoder puts the word back together. -/
theorem encodeWritesDecode : Obligations.EncodeWritesDecode :=
  fun _ _ hi => reads_of_decodeWord hi

/-! ## The words that no handler takes -/

theorem undefined_of_not_defined8 :
    ∀ n : Nib, n ∉ [0x0#4, 0x1#4, 0x2#4, 0x3#4, 0x4#4, 0x5#4, 0x6#4, 0x7#4, 0xE#4] →
      n ∈ [0x8#4, 0x9#4, 0xA#4, 0xB#4, 0xC#4, 0xD#4, 0xF#4] := by decide

theorem dispatch8_error_iff (v : View) :
    (∃ e, dispatch8 v = .error e) ↔ v.n ∈ [0x8#4, 0x9#4, 0xA#4, 0xB#4, 0xC#4, 0xD#4, 0xF#4] := by
  unfold dispatch8
  split
  case h_10 =>
    exact iff_of_true ⟨_, rfl⟩ (undefined_of_not_defined8 _ (by simp_all))
  all_goals
    rename_i hn
    exact iff_of_false (fun ⟨_, he⟩ => nomatch he) (by rw [hn]; decide)

theorem dispatchE_error_iff (v : View) :
    (∃ e, dispatchE v = .error e) ↔ lowByte v ∉ [0x9E#8, 0xA1#8] := by
  unfold dispatchE
  split
  case h_3 => exact iff_of_true ⟨_, rfl⟩ (by simp_all)
  all_goals
    rename_i hlow
    exact iff_of_false (fun ⟨_, he⟩ => nomatch he) (by rw [hlow]; decide)

theorem dispatchF_error_iff (v : View) :
    (∃ e, dispatchF v = .error e) ↔
      lowByte v ∉ [0x07#8, 0x0A#8, 0x15#8, 0x18#8, 0x1E#8, 0x29#8, 0x33#8, 0x55#8, 0x65#8] := by
  unfold dispatchF
  split
  case h_10 => exact iff_of_true ⟨_, rfl⟩ (by simp_all)
  all_goals
    rename_i hlow
    exact iff_of_false (fun ⟨_, he⟩ => nomatch he) (by rw [hlow]; decide)

/-- Only classes 8, E and F have a second level that can refuse (spec/30_encoding.md R52). -/
theorem dispatch_ok_of_class {v : View} (h8 : opClass v ≠ 0x8#4) (hE : opClass v ≠ 0xE#4) (hF : opClass v ≠ 0xF#4) :
    ∃ i, dispatch v = .ok i := by
  unfold dispatch
  split
  case h_9 h => exact absurd h h8
  case h_15 h => exact absurd h hE
  case h_16 => exact absurd (by apply nib_eq_F <;> assumption) hF
  all_goals exact ⟨_, rfl⟩

/-- Settles O38: a word outside classes 8, E and F has an instruction, and within them the second level decides. -/
theorem undecodedWordsAreUndefined : Obligations.UndecodedWordsAreUndefined := by
  intro w
  have hclass : opClass (decodeView w) = w.extractLsb' 12 4 := rfl
  have hn : (decodeView w).n = w.extractLsb' 0 4 := rfl
  unfold Machine.UndefinedWord
  rw [← hclass, ← hn, ← lowByte_decodeView, ← dispatch8_error_iff, ← dispatchE_error_iff, ← dispatchF_error_iff]
  by_cases h8 : opClass (decodeView w) = 0x8#4
  · simp [decodeWord, dispatch_of_class8 h8, h8]
  by_cases hE : opClass (decodeView w) = 0xE#4
  · simp [decodeWord, dispatch_of_classE hE, hE]
  by_cases hF : opClass (decodeView w) = 0xF#4
  · simp [decodeWord, dispatch_of_classF hF, hF]
  obtain ⟨i, hi⟩ := dispatch_ok_of_class h8 hE hF
  simp [decodeWord, hi, h8, hE, hF]

/-- Settles O39: every word is closed, so the decoder is evaluated on it. -/
theorem sampleWordsDecode : Obligations.SampleWordsDecode := by
  unfold Obligations.SampleWordsDecode
  decide

end Sys2Proof
end

section
/-! SUPPORT. The call stack, the skips on registers and keys, JP V0 and SYS (spec/41_control_flow.md R62, R63, R65,
R68 to R70, spec/44_timers_keys.md R90, R91): what each does on each side of its test, and the obligations that state
them. -/

namespace Sys2Proof.Machine

/-! ## SYS and the register skips -/

theorem exec_sys (nnn : Lit12) (s : State) :
    exec (.sys nnn) s = raiseError .unsupportedInstruction (encode (.sys nnn)) s := rfl

theorem exec_seReg (x y ign : Nib) (s : State) :
    exec (.seReg x y ign) s = .next (skipIf (readReg x s == readReg y s) s) := rfl

theorem exec_sneReg (x y ign : Nib) (s : State) :
    exec (.sneReg x y ign) s = .next (skipIf (readReg x s != readReg y s) s) := rfl

/-- Settles O13: SYS has one branch, and a class-0 word is well formed as a SYS when it is neither CLS nor RET. -/
theorem sysTakesUnsupportedInstruction : Obligations.SysTakesUnsupportedInstruction := by
  intro nnn
  refine ⟨exec_sys nnn, fun hcls hret => decodeWord_sys ((wellFormed_sys_iff nnn).mpr ?_)⟩
  rw [setWidth_eight_eq_extractLsb']
  exact ⟨hcls, hret⟩

/-- Settles O11: the Boolean test of SE decides equality, and the low nibble is not read. -/
theorem seRegSkipsOnEqual : Obligations.SeRegSkipsOnEqual := by
  intro x y ign s
  exact ⟨decodeWord_seReg x y ign, skipsIf_of_exec (exec_seReg x y ign s) beq_iff_eq⟩

/-- Settles O12: the Boolean test of SNE decides inequality, and the low nibble is not read. -/
theorem sneRegSkipsOnUnequal : Obligations.SneRegSkipsOnUnequal := by
  intro x y ign s
  exact ⟨decodeWord_sneReg x y ign, skipsIf_of_exec (exec_sneReg x y ign s) bne_iff_ne⟩

/-! ## JP V0 -/

theorem exec_jpV0 (nnn : Lit12) (s : State) :
    exec (.jpV0 nnn) s = .next (jumpTo (literal16 nnn + byte16 (readReg 0x0 s)) s) := rfl

/-- A 12-bit literal and a byte together stay below 2^16. -/
theorem literal16_add_byte16_toNat (nnn : Lit12) (b : Byte) :
    (literal16 nnn + byte16 b).toNat = nnn.toNat + b.toNat := by
  have hnnn : nnn.toNat < 4096 := nnn.isLt
  have hb : b.toNat < 256 := b.isLt
  rw [BitVec.toNat_add, literal16_toNat, byte16_toNat, Nat.mod_eq_of_lt (by omega)]

/-- Settles O8: JP V0 is one pc update, and the sum it forms does not wrap. -/
theorem jpV0AddsV0ToLiteral : Obligations.JpV0AddsV0ToLiteral := by
  intro nnn s
  exact ⟨decodeWord_jpV0 nnn, _, exec_jpV0 nnn s, literal16_add_byte16_toNat nnn _,
    onlyRegs_jumpTo _ s, onlyParts_jumpTo _ s⟩

/-! ## CALL and RET -/

/-- The state after a CALL at a stack with a free entry. -/
def called (nnn : Lit12) (s : State) (h : s.sp.val < 16) : State :=
  jumpTo (literal16 nnn) { s with stack := s.stack.set s.sp.val s.pc h, sp := ⟨s.sp.val + 1, by omega⟩ }

/-- The state after a RET at a stack with an entry in use. -/
def returned (s : State) (h : 0 < s.sp.val) : State :=
  jumpTo (s.stack[s.sp.val - 1]'(by omega) + 2) { s with sp := ⟨s.sp.val - 1, by omega⟩ }

theorem exec_call (nnn : Lit12) (s : State) : exec (.call nnn) s = execCall nnn s := rfl

theorem exec_ret (ign : Nib) (s : State) : exec (.ret ign) s = execRet ign s := rfl

theorem exec_call_of_lt (nnn : Lit12) {s : State} (h : s.sp.val < 16) :
    exec (.call nnn) s = .next (called nnn s h) := by
  rw [exec_call, execCall, push_of_lt h]
  rfl

theorem exec_call_of_full (nnn : Lit12) {s : State} (h : s.sp.val = 16) :
    exec (.call nnn) s = raiseError .stackOverflow (encode (.call nnn)) s := by
  rw [exec_call, execCall, push_of_full h]

theorem exec_ret_of_pos (ign : Nib) {s : State} (h : 0 < s.sp.val) :
    exec (.ret ign) s = .next (returned s h) := by
  rw [exec_ret, execRet, pop_of_pos h]
  rfl

theorem exec_ret_of_empty (ign : Nib) {s : State} (h : s.sp.val = 0) :
    exec (.ret ign) s = raiseError .stackUnderflow (encode (.ret ign)) s := by
  rw [exec_ret, execRet, pop_of_empty h]

theorem onlyParts_called (nnn : Lit12) (s : State) (h : s.sp.val < 16) :
    OnlyParts [.pc, .stack, .sp] s (called nnn s h) := by
  intro p hp
  cases p with
  | pc | stack | sp => simp at hp
  | mem | keys => exact fun _ => rfl
  | _ => simp [SamePart, called]

theorem onlyParts_returned (s : State) (h : 0 < s.sp.val) : OnlyParts [.pc, .sp] s (returned s h) := by
  intro p hp
  cases p with
  | pc | sp => simp at hp
  | mem | keys => exact fun _ => rfl
  | _ => simp [SamePart, returned]

theorem stack_called (nnn : Lit12) (s : State) (h : s.sp.val < 16) (j : Fin 16) :
    (called nnn s h).stack[j] = if j.val = s.sp.val then s.pc else s.stack[j] := by
  simp [called, Vector.getElem_set, eq_comm]

/-- Settles O4: a free entry takes the address of the CALL, and with none free the push fails. -/
theorem callPushesPcAndJumps : Obligations.CallPushesPcAndJumps := by
  intro nnn s
  refine ⟨decodeWord_call nnn, fun h => ?_, fun h => exec_call_of_full nnn h⟩
  exact ⟨_, exec_call_of_lt nnn h, stack_called nnn s h, rfl, literal16_toNat nnn, fun _ _ => rfl,
    onlyParts_called nnn s h⟩

/-- Settles O5: the entry below SP is read and kept, and at SP = 0 the pop fails. -/
theorem retPopsAndAdvances : Obligations.RetPopsAndAdvances := by
  intro ign s
  refine ⟨decodeWord_ret ign, fun h => ?_, fun h => exec_ret_of_empty ign h⟩
  refine ⟨_, exec_ret_of_pos ign h, ?pc, ?sp, fun _ _ => rfl, onlyParts_returned s h⟩
  case pc =>
    intro j hj
    have hval : s.sp.val - 1 = j.val := by omega
    simp [returned, hval]
  case sp => exact Nat.sub_add_cancel h

theorem SamePart.trans {s t u : State} {p : StatePart} (hst : SamePart s t p) (htu : SamePart t u p) :
    SamePart s u p := by
  cases p with
  | stack | mem | keys => exact fun j => (htu j).trans (hst j)
  | fb => exact fun x y => (htu x y).trans (hst x y)
  | host => exact ⟨htu.1.trans hst.1, htu.2.trans hst.2⟩
  | _ => exact Eq.trans htu hst

/-- Settles O6: the RET pops the entry that the CALL pushed, and SP comes back to its value. -/
theorem returnResumesAfterCall : Obligations.ReturnResumesAfterCall := by
  intro nnn ign s h
  have hpos : 0 < (called nnn s h).sp.val := Nat.succ_pos _
  refine ⟨_, _, exec_call_of_lt nnn h, exec_ret_of_pos ign hpos, ?pc, rfl, fun _ _ => rfl, ?parts⟩
  case pc =>
    have hentry := stack_called nnn s h ⟨s.sp.val, h⟩
    rw [if_pos rfl] at hentry
    exact congrArg (· + 2) hentry
  case parts =>
    intro p hp
    by_cases hsp : p = .sp
    · rw [hsp]
      rfl
    · exact (onlyParts_called nnn s h p (by simp_all)).trans (onlyParts_returned _ hpos p (by simp_all))

/-! ## SKP and SKNP -/

theorem exec_skp (x : Nib) (s : State) : exec (.skp x) s = execSkp x s := rfl

theorem exec_sknp (x : Nib) (s : State) : exec (.sknp x) s = execSknp x s := rfl

theorem exec_skp_of_le {x : Nib} {s : State} (h : (readReg x s).toNat ≤ 15) :
    exec (.skp x) s = .next (skipIf (keyDown (BitVec.ofNat 4 (readReg x s).toNat) s) s) := by
  rw [exec_skp, execSkp, keyOperand_eq, if_neg (by omega)]

theorem exec_skp_of_gt {x : Nib} {s : State} (h : 15 < (readReg x s).toNat) :
    exec (.skp x) s = raiseError .keyIndexOutOfRange (encode (.skp x)) s := by
  rw [exec_skp, execSkp, keyOperand_eq, if_pos h]

theorem exec_sknp_of_le {x : Nib} {s : State} (h : (readReg x s).toNat ≤ 15) :
    exec (.sknp x) s = .next (skipIf (!keyDown (BitVec.ofNat 4 (readReg x s).toNat) s) s) := by
  rw [exec_sknp, execSknp, keyOperand_eq, if_neg (by omega)]

theorem exec_sknp_of_gt {x : Nib} {s : State} (h : 15 < (readReg x s).toNat) :
    exec (.sknp x) s = raiseError .keyIndexOutOfRange (encode (.sknp x)) s := by
  rw [exec_sknp, execSknp, keyOperand_eq, if_pos h]

/-- Settles O31: V[X] names a key up to 0x0F and none above it. -/
theorem skpSkipsOnKeyDown : Obligations.SkpSkipsOnKeyDown := by
  intro x s
  exact ⟨decodeWord_skp x, fun h => skipsIf_of_exec (exec_skp_of_le h) Iff.rfl, fun h => exec_skp_of_gt h⟩

/-- Settles O32: as SKP, with the test negated. -/
theorem sknpSkipsOnKeyUp : Obligations.SknpSkipsOnKeyUp := by
  intro x s
  exact ⟨decodeWord_sknp x, fun h => skipsIf_of_exec (exec_sknp_of_le h) (iff_of_eq (Bool.not_eq_true' _)),
    fun h => exec_sknp_of_gt h⟩

end Sys2Proof.Machine
end

section
/-! SUPPORT. The ALU instructions that write a flag, RND, ADD I, restore after save, and the key wait
(spec/42_alu.md R78 to R83, spec/43_index_memory.md R87 to R89, spec/44_timers_keys.md R95): what each update leaves
unchanged, and the obligations that state them. -/

namespace Sys2Proof.Machine

/-! ## A result and a flag, followed by Next -/

theorem onlyParts_writeWithFlag_nextPc (x : Nib) (b : Byte) (flag : Bool) (s : State) :
    OnlyParts [.pc] s (nextPc (writeWithFlag x b flag s)) := by
  intro p hp
  cases p with
  | pc => simp at hp
  | _ => simp [SamePart]

theorem onlyRegs_writeWithFlag_nextPc (x : Nib) (b : Byte) (flag : Bool) (s : State) :
    OnlyRegs [x, 0xF] s (nextPc (writeWithFlag x b flag s)) := by
  intro r hr
  obtain ⟨hx, hF⟩ : r ≠ x ∧ r ≠ 0xF := by simpa using hr
  rw [readReg_nextPc, readReg_writeWithFlag, if_neg hF, if_neg hx]

theorem readReg_flag_nextPc_writeWithFlag (x : Nib) (b : Byte) (flag : Bool) (s : State) :
    readReg 0xF (nextPc (writeWithFlag x b flag s)) = flagByte flag := by
  rw [readReg_nextPc, readReg_writeWithFlag, if_pos rfl]

/-- An instruction that only writes a result and a flag and applies Next has the shape WritesRegAndFlag. -/
theorem writesRegAndFlag_of_exec {i : Instr} {s : State} {x : Nib} {b b' : Byte} {flag : Bool} {c : Prop}
    (hexec : exec i s = .next (nextPc (writeWithFlag x b flag s))) (hresult : b = b') (hflag : flag = true ↔ c) :
    WritesRegAndFlag i s x b' c := by
  refine ⟨_, hexec, ?set, ?clear, ?result, rfl, onlyRegs_writeWithFlag_nextPc x b flag s,
    onlyParts_writeWithFlag_nextPc x b flag s⟩
  case set =>
    intro hc
    rw [readReg_flag_nextPc_writeWithFlag, hflag.mpr hc]
    rfl
  case clear =>
    intro hc
    rw [readReg_flag_nextPc_writeWithFlag, Bool.eq_false_iff.mpr (mt hflag.mp hc)]
    rfl
  case result =>
    intro hx
    rw [readReg_nextPc, readReg_writeWithFlag, if_neg hx, if_pos rfl, hresult]

/-! ## The results and flags as numbers -/

theorem sum9_toNat (a b : Byte) : (sum9 a b).toNat = a.toNat + b.toNat := by
  have ha : a.toNat < 256 := a.isLt
  have hb : b.toNat < 256 := b.isLt
  rw [sum9, BitVec.toNat_add, BitVec.toNat_setWidth_of_le (by decide), BitVec.toNat_setWidth_of_le (by decide),
    Nat.mod_eq_of_lt (by omega)]

theorem sum9_setWidth (a b : Byte) : (sum9 a b).setWidth 8 = BitVec.ofNat 8 ((a.toNat + b.toNat) % 256) := by
  apply BitVec.eq_of_toNat_eq
  rw [BitVec.toNat_setWidth, sum9_toNat, BitVec.toNat_ofNat, Nat.mod_mod]

/-- The carry is the top bit of the 9-bit sum, which is set from 256 on. -/
theorem carryOut_iff (a b : Byte) : carryOut a b = true ↔ a.toNat + b.toNat > 255 := by
  have hlt : (sum9 a b).toNat < 512 := (sum9 a b).isLt
  have hmsb : carryOut a b = decide (256 ≤ (sum9 a b).toNat) := by
    rw [← BitVec.msb_eq_decide (sum9 a b)]
    rfl
  rw [hmsb, sum9_toNat, decide_eq_true_iff]
  omega

theorem byte_sub_eq_ofNat_mod (a b : Byte) : a - b = BitVec.ofNat 8 ((256 + a.toNat - b.toNat) % 256) := by
  have hb : b.toNat < 256 := b.isLt
  apply BitVec.eq_of_toNat_eq
  rw [BitVec.toNat_sub, BitVec.toNat_ofNat]
  omega

theorem noBorrow_iff (a b : Byte) : noBorrow a b = true ↔ ¬a.toNat < b.toNat := by
  rw [noBorrow, decide_eq_true_iff, ge_iff_le, BitVec.le_def, Nat.not_lt]

theorem byte_ushiftRight_one (a : Byte) : a >>> 1 = BitVec.ofNat 8 (a.toNat / 2) := by
  have ha : a.toNat < 256 := a.isLt
  apply BitVec.eq_of_toNat_eq
  rw [BitVec.toNat_ushiftRight, BitVec.toNat_ofNat, Nat.shiftRight_eq_div_pow]
  omega

theorem lowBit_iff (a : Byte) : lowBit a = true ↔ a.toNat % 2 = 1 := by
  rw [lowBit, BitVec.getLsbD, Nat.testBit_zero, decide_eq_true_iff]

theorem byte_shiftLeft_one (a : Byte) : a <<< 1 = BitVec.ofNat 8 (a.toNat * 2 % 256) := by
  apply BitVec.eq_of_toNat_eq
  rw [BitVec.toNat_shiftLeft, BitVec.toNat_ofNat, Nat.shiftLeft_eq]
  omega

/-- Bit 7 of a byte is its top bit, which is set from 128 on. -/
theorem highBit_iff (a : Byte) : highBit a = true ↔ a.toNat ≥ 128 := by
  have hmsb : highBit a = decide (128 ≤ a.toNat) := by
    rw [← BitVec.msb_eq_decide a]
    rfl
  rw [hmsb, decide_eq_true_iff]

/-! ## The instructions that write a flag -/

theorem exec_addReg (x y : Nib) (s : State) :
    exec (.addReg x y) s = .next (nextPc (writeWithFlag x ((sum9 (readReg x s) (readReg y s)).setWidth 8)
      (carryOut (readReg x s) (readReg y s)) s)) := rfl

theorem exec_subReg (x y : Nib) (s : State) :
    exec (.subReg x y) s = .next (nextPc (writeWithFlag x (readReg x s - readReg y s)
      (noBorrow (readReg x s) (readReg y s)) s)) := rfl

theorem exec_shr (x y : Nib) (s : State) :
    exec (.shr x y) s = .next (nextPc (writeWithFlag x (readReg x s >>> 1) (lowBit (readReg x s)) s)) := rfl

theorem exec_subnReg (x y : Nib) (s : State) :
    exec (.subnReg x y) s = .next (nextPc (writeWithFlag x (readReg y s - readReg x s)
      (noBorrow (readReg y s) (readReg x s)) s)) := rfl

theorem exec_shl (x y : Nib) (s : State) :
    exec (.shl x y) s = .next (nextPc (writeWithFlag x (readReg x s <<< 1) (highBit (readReg x s)) s)) := rfl

/-- Settles O18: the low 8 bits of the 9-bit sum are the sum mod 256, and its bit 8 is the carry. -/
theorem addRegSetsCarry : Obligations.AddRegSetsCarry := by
  intro x y s
  exact ⟨decodeWord_addReg x y,
    writesRegAndFlag_of_exec (exec_addReg x y s) (sum9_setWidth _ _) (carryOut_iff _ _)⟩

/-- Settles O19: the subtraction of bytes is the difference mod 256, and it borrows exactly when it is negative. -/
theorem subRegSetsNoBorrow : Obligations.SubRegSetsNoBorrow := by
  intro x y s
  exact ⟨decodeWord_subReg x y,
    writesRegAndFlag_of_exec (exec_subReg x y s) (byte_sub_eq_ofNat_mod _ _) (noBorrow_iff _ _)⟩

/-- Settles O20: a shift right by one halves the byte, and bit 0 is its remainder. -/
theorem shrSetsBitShiftedOut : Obligations.ShrSetsBitShiftedOut := by
  intro x y s
  exact ⟨decodeWord_shr x y, writesRegAndFlag_of_exec (exec_shr x y s) (byte_ushiftRight_one _) (lowBit_iff _)⟩

/-- Settles O21: as SUB, with the operands the other way round. -/
theorem subnRegSetsNoBorrow : Obligations.SubnRegSetsNoBorrow := by
  intro x y s
  exact ⟨decodeWord_subnReg x y,
    writesRegAndFlag_of_exec (exec_subnReg x y s) (byte_sub_eq_ofNat_mod _ _) (noBorrow_iff _ _)⟩

/-- Settles O22: a shift left by one doubles the byte mod 256, and bit 7 is what the doubling loses. -/
theorem shlSetsBitShiftedOut : Obligations.ShlSetsBitShiftedOut := by
  intro x y s
  exact ⟨decodeWord_shl x y, writesRegAndFlag_of_exec (exec_shl x y s) (byte_shiftLeft_one _) (highBit_iff _)⟩

/-! ## RND -/

theorem exec_rnd (x : Nib) (nn : Byte) (s : State) :
    exec (.rnd x nn) s = .next (nextPc (writeReg x (randomByte s &&& nn) (dropRandom s))) := rfl

theorem onlyParts_writeReg_dropRandom (r : Nib) (b : Byte) (s : State) :
    OnlyParts [.pc, .rngDraws] s (nextPc (writeReg r b (dropRandom s))) := by
  intro p hp
  cases p with
  | pc | rngDraws => simp at hp
  | _ => simp [SamePart]

/-- Settles O23: the byte is read before the source moves on, and the source moves on by one. -/
theorem rndMasksFreshByte : Obligations.RndMasksFreshByte := by
  intro x nn s
  exact ⟨decodeWord_rnd x nn, _, exec_rnd x nn s, readReg_writeReg_same _ _ _, rfl, rfl,
    onlyRegs_writeReg x _ (dropRandom s), onlyParts_writeReg_dropRandom x _ s⟩

/-! ## ADD I -/

theorem exec_addI (x : Nib) (s : State) :
    exec (.addI x) s = .next (nextPc (setIdx (s.idx + byte16 (readReg x s)) s)) := rfl

theorem word_add_byte16_toNat (w : Word) (b : Byte) : (w + byte16 b).toNat = (w.toNat + b.toNat) % 65536 := by
  rw [BitVec.toNat_add, byte16_toNat]

/-- Settles O27: ADD I is one write to I, and addition of words is mod 2^16. -/
theorem addIAddsToIndexWithoutFlag : Obligations.AddIAddsToIndexWithoutFlag := by
  intro x s
  exact ⟨decodeWord_addI x, _, exec_addI x s, word_add_byte16_toNat _ _, rfl,
    onlyRegs_setIdx_nextPc _ s, onlyParts_setIdx_nextPc _ s⟩

/-! ## Restore after save -/

theorem indexed_of_idx {s u : State} (h : u.idx = s.idx) (k : Nat) : indexed k u = indexed k s := by
  rw [indexed, indexed, h]

/-- Settles O30: the restore reads each register's byte where the save put it, since I is the same. -/
theorem loadAfterSaveRestores : Obligations.LoadAfterSaveRestores := by
  intro x s
  obtain ⟨-, t, hsave, hstored, -⟩ := saveRegsStoresBlock x s
  refine ⟨t, hsave, fun u hidx hmem => ?_⟩
  obtain ⟨-, w, hload, hloaded, -, -, hparts⟩ := loadRegsReadsBlock x u
  refine ⟨w, hload, fun r hr => ?_, Eq.trans (hparts .idx (by simp)) hidx⟩
  calc readReg r w
      = memRead (indexed r.toNat u) u := hloaded r hr
    _ = memRead (indexed r.toNat s) t := by rw [indexed_of_idx hidx, hmem]
    _ = readReg r s := hstored r hr

/-! ## LD Vx, K -/

/-- The state after a key wait that ends with key k. -/
def keyTaken (x k : Nib) (s : State) : State :=
  nextPc (setStatus .running (writeReg x (nibble8 k) (dropChoice s)))

theorem exec_ldVxK (x : Nib) (s : State) : exec (.ldVxK x) s = execLdVxK x s := rfl

theorem exec_ldVxK_of_nil (x : Nib) {s : State} (h : pressedKeys s = []) :
    exec (.ldVxK x) s = .next { s with status := .awaitingKey } := by
  rw [exec_ldVxK, execLdVxK, h]
  rfl

theorem exec_ldVxK_of_cons (x : Nib) {s : State} {k : Nib} {ks : List Nib} (h : pressedKeys s = k :: ks) :
    exec (.ldVxK x) s = .next (keyTaken x (chosenKey k ks s) s) := by
  rw [exec_ldVxK, execLdVxK, h]
  rfl

theorem pressedKeys_eq_nil_iff (s : State) : pressedKeys s = [] ↔ ∀ k : Nib, keyDown k s = false := by
  simp only [List.eq_nil_iff_forall_not_mem, mem_pressedKeys, Bool.not_eq_true]

theorem keyDown_chosenKey {s : State} {k : Nib} {ks : List Nib} (h : pressedKeys s = k :: ks) :
    keyDown (chosenKey k ks s) s = true := by
  rw [← mem_pressedKeys, h]
  exact chosenKey_mem k ks s

theorem nibble8_toNat (n : Nib) : (nibble8 n).toNat = n.toNat := BitVec.toNat_setWidth_of_le (by decide)

theorem onlyRegs_keyTaken (x k : Nib) (s : State) : OnlyRegs [x] s (keyTaken x k s) :=
  onlyRegs_writeReg x (nibble8 k) (dropChoice s)

theorem onlyParts_keyTaken (x k : Nib) (s : State) :
    OnlyParts [.pc, .status, .keyDraws] s (keyTaken x k s) := by
  intro p hp
  cases p with
  | pc | status | keyDraws => simp at hp
  | _ => simp [SamePart, keyTaken]

/-- Settles O35: the list of keys that are down is empty or the choice picks a member of it. -/
theorem ldVxKWaitsForKey : Obligations.LdVxKWaitsForKey := by
  intro x s
  refine ⟨decodeWord_ldVxK x, fun h => exec_ldVxK_of_nil x ((pressedKeys_eq_nil_iff s).mpr h), ?pressed⟩
  case pressed =>
    rintro ⟨q, hq⟩
    obtain ⟨k, ks, hkeys⟩ := List.exists_cons_of_ne_nil (List.ne_nil_of_mem ((mem_pressedKeys q s).mpr hq))
    refine ⟨_, _, exec_ldVxK_of_cons x hkeys, keyDown_chosenKey hkeys, ?_, rfl, rfl, onlyRegs_keyTaken x _ s,
      onlyParts_keyTaken x _ s⟩
    rw [keyTaken, readReg_nextPc, readReg_setStatus, readReg_writeReg_same, nibble8_toNat]

end Sys2Proof.Machine
end

section
/-! SUPPORT. DRW (spec/40_display.md R61): the sprite as the list of the cells it lights, no cell twice, and the two
obligations on drawing. -/

namespace Sys2Proof.Machine

/-! ## Flipping a list of cells -/

/-- What a sprite bit 1 does to the cell it falls on. -/
def flipCell (d : Blit) (c : Fin 64 × Fin 32) : Blit :=
  { fb := fbFlip c.1 c.2 d.fb, hit := d.hit || fbGet c.1 c.2 d.fb }

theorem fbGet_flipCell_same (c : Fin 64 × Fin 32) (d : Blit) :
    fbGet c.1 c.2 (flipCell d c).fb = !fbGet c.1 c.2 d.fb := by
  rw [flipCell, fbGet_fbFlip, if_pos ⟨rfl, rfl⟩]

theorem fbGet_flipCell_other {c q : Fin 64 × Fin 32} (hq : q ≠ c) (d : Blit) :
    fbGet q.1 q.2 (flipCell d c).fb = fbGet q.1 q.2 d.fb := by
  rw [flipCell, fbGet_fbFlip, if_neg fun h => hq (Prod.ext h.1 h.2)]

theorem fbGet_foldl_flipCell_of_notMem {cells : List (Fin 64 × Fin 32)} {q : Fin 64 × Fin 32} (hq : q ∉ cells)
    (d : Blit) : fbGet q.1 q.2 (cells.foldl flipCell d).fb = fbGet q.1 q.2 d.fb := by
  induction cells generalizing d with
  | nil => rfl
  | cons c cells ih =>
    obtain ⟨hne, hrest⟩ := not_or.mp (mt List.mem_cons.mpr hq)
    rw [List.foldl_cons, ih hrest, fbGet_flipCell_other hne]

/-- A cell that stands once in the list is flipped once. -/
theorem fbGet_foldl_flipCell_of_mem {cells : List (Fin 64 × Fin 32)} (hnodup : cells.Nodup) {q : Fin 64 × Fin 32}
    (hq : q ∈ cells) (d : Blit) : fbGet q.1 q.2 (cells.foldl flipCell d).fb = !fbGet q.1 q.2 d.fb := by
  induction cells generalizing d with
  | nil => cases hq
  | cons c cells ih =>
    obtain ⟨hc, hrest⟩ := List.nodup_cons.mp hnodup
    rw [List.foldl_cons]
    by_cases hqc : q = c
    · rw [hqc, fbGet_foldl_flipCell_of_notMem hc, fbGet_flipCell_same]
    · rw [ih hrest (List.mem_of_ne_of_mem hqc hq), fbGet_flipCell_other hqc]

/-- With no cell twice, each cell is tested at the value it had before the first flip. -/
theorem hit_foldl_flipCell {cells : List (Fin 64 × Fin 32)} (hnodup : cells.Nodup) (d : Blit) :
    (cells.foldl flipCell d).hit = true ↔ d.hit = true ∨ ∃ q ∈ cells, fbGet q.1 q.2 d.fb = true := by
  induction cells generalizing d with
  | nil => simp
  | cons c cells ih =>
    obtain ⟨hc, hrest⟩ := List.nodup_cons.mp hnodup
    have hsame : ∀ q ∈ cells, fbGet q.1 q.2 (flipCell d c).fb = fbGet q.1 q.2 d.fb :=
      fun q hq => fbGet_flipCell_other (ne_of_mem_of_not_mem hq hc) d
    have htail : (∃ q ∈ cells, fbGet q.1 q.2 (flipCell d c).fb = true) ↔ ∃ q ∈ cells, fbGet q.1 q.2 d.fb = true :=
      exists_congr fun q => and_congr_right fun hq => by rw [hsame q hq]
    rw [List.foldl_cons, ih hrest, htail]
    simp [flipCell, or_assoc]

/-! ## The cells a sprite lights -/

/-- The cells that the row byte b, drawn as row r, lights. -/
def rowCells (x0 y0 : Byte) (r : Nat) (b : Byte) : List (Fin 64 × Fin 32) :=
  ((List.range 8).filter (spriteBit b)).map fun c => (column x0 c, row y0 r)

/-- The cells that a sprite of the given height at I lights. -/
def litCells (x0 y0 : Byte) (height : Nat) (s : State) : List (Fin 64 × Fin 32) :=
  (List.range height).flatMap fun r => rowCells x0 y0 r (memRead (indexed r s) s)

theorem blitRow_eq_foldl (x0 y0 : Byte) (r : Nat) (b : Byte) (d : Blit) :
    blitRow x0 y0 r b d = (rowCells x0 y0 r b).foldl flipCell d := by
  rw [rowCells, List.foldl_map, List.foldl_filter]
  rfl

theorem blitSprite_eq_foldl (x0 y0 : Byte) (height : Nat) (s : State) :
    blitSprite x0 y0 height s = (litCells x0 y0 height s).foldl flipCell { fb := s.fb, hit := false } := by
  simp only [blitSprite, litCells, List.foldl_flatMap, blitRow_eq_foldl]

/-- Eight neighbouring columns are apart mod 64. -/
theorem column_inj {x0 : Byte} {c c' : Nat} (hc : c < 8) (hc' : c' < 8) (h : column x0 c = column x0 c') : c = c' := by
  have hval : (x0.toNat + c) % 64 = (x0.toNat + c') % 64 := congrArg Fin.val h
  omega

/-- A sprite has fewer than 32 rows, so its rows are apart mod 32. -/
theorem row_inj {y0 : Byte} {r r' : Nat} (hr : r < 32) (hr' : r' < 32) (h : row y0 r = row y0 r') : r = r' := by
  have hval : (y0.toNat + r) % 32 = (y0.toNat + r') % 32 := congrArg Fin.val h
  omega

theorem mem_rowCells {x0 y0 : Byte} {r : Nat} {b : Byte} {q : Fin 64 × Fin 32} :
    q ∈ rowCells x0 y0 r b ↔ ∃ c < 8, spriteBit b c = true ∧ (column x0 c, row y0 r) = q := by
  simp only [rowCells, List.mem_map, List.mem_filter, List.mem_range, and_assoc]

theorem nodup_rowCells (x0 y0 : Byte) (r : Nat) (b : Byte) : (rowCells x0 y0 r b).Nodup := by
  refine List.Nodup.map_on ?_ (List.nodup_range.filter _)
  intro c hc c' hc' h
  simp only [List.mem_filter, List.mem_range] at hc hc'
  exact column_inj hc.1 hc'.1 (Prod.mk.inj h).1

theorem nodup_litCells (x0 y0 : Byte) {height : Nat} (hheight : height ≤ 32) (s : State) :
    (litCells x0 y0 height s).Nodup := by
  refine List.nodup_flatMap.mpr ⟨fun r _ => nodup_rowCells x0 y0 r _, ?_⟩
  refine List.nodup_range.imp_of_mem ?_
  intro r r' hr hr' hne q hq hq'
  obtain ⟨c, -, -, rfl⟩ := mem_rowCells.mp hq
  obtain ⟨c', -, -, h⟩ := mem_rowCells.mp hq'
  rw [List.mem_range] at hr hr'
  exact hne (row_inj (by omega) (by omega) (Prod.mk.inj h).2.symm)

theorem mem_litCells_iff (x0 y0 : Byte) (height : Nat) (s : State) (cx : Fin 64) (cy : Fin 32) :
    (cx, cy) ∈ litCells x0 y0 height s ↔ SpriteLights s x0 y0 height cx cy := by
  simp only [litCells, List.mem_flatMap, List.mem_range, mem_rowCells]
  constructor
  · rintro ⟨r, hr, c, hc, hbit, hq⟩
    obtain ⟨rfl, rfl⟩ := Prod.mk.inj hq
    exact ⟨r, c, hr, hc, rfl, rfl, hbit⟩
  · rintro ⟨r, c, hr, hc, hcx, hcy, hbit⟩
    exact ⟨r, hr, c, hc, hbit, Prod.ext (Fin.ext hcx.symm) (Fin.ext hcy.symm)⟩

/-! ## The drawn sprite -/

theorem fbGet_blitSprite_of_lights {x0 y0 : Byte} {height : Nat} (hheight : height ≤ 32) {s : State} {cx : Fin 64}
    {cy : Fin 32} (h : SpriteLights s x0 y0 height cx cy) :
    fbGet cx cy (blitSprite x0 y0 height s).fb = !fbGet cx cy s.fb := by
  rw [blitSprite_eq_foldl]
  exact fbGet_foldl_flipCell_of_mem (nodup_litCells x0 y0 hheight s) ((mem_litCells_iff ..).mpr h) _

theorem fbGet_blitSprite_of_not_lights {x0 y0 : Byte} {height : Nat} {s : State} {cx : Fin 64} {cy : Fin 32}
    (h : ¬SpriteLights s x0 y0 height cx cy) : fbGet cx cy (blitSprite x0 y0 height s).fb = fbGet cx cy s.fb := by
  rw [blitSprite_eq_foldl]
  exact fbGet_foldl_flipCell_of_notMem (mt (mem_litCells_iff ..).mp h) _

theorem hit_blitSprite_iff (x0 y0 : Byte) {height : Nat} (hheight : height ≤ 32) (s : State) :
    (blitSprite x0 y0 height s).hit = true ↔
      ∃ (cx : Fin 64) (cy : Fin 32), SpriteLights s x0 y0 height cx cy ∧ fbGet cx cy s.fb = true := by
  rw [blitSprite_eq_foldl, hit_foldl_flipCell (nodup_litCells x0 y0 hheight s)]
  simp [Prod.exists, mem_litCells_iff]

/-! ## DRW -/

/-- The state after a DRW whose sprite leaves the framebuffer and the collision of d. -/
def drawn (d : Blit) (s : State) : State :=
  nextPc (raiseDirty (writeReg flagReg (flagByte d.hit) (setFb d.fb s)))

theorem exec_drw (x y n : Nib) (s : State) :
    exec (.drw x y n) s = .next (drawn (blitSprite (readReg x s) (readReg y s) n.toNat s) s) := rfl

theorem readReg_flag_drawn (d : Blit) (s : State) : readReg 0xF (drawn d s) = flagByte d.hit :=
  readReg_writeReg_same _ _ _

theorem onlyRegs_drawn (d : Blit) (s : State) : OnlyRegs [0xF] s (drawn d s) :=
  onlyRegs_writeReg flagReg (flagByte d.hit) (setFb d.fb s)

theorem onlyParts_drawn (d : Blit) (s : State) : OnlyParts [.pc, .fb, .dirty] s (drawn d s) := by
  intro p hp
  cases p with
  | pc | fb | dirty => simp at hp
  | _ => simp [SamePart, drawn]

/-- Settles O2: the sprite's cells are flipped once each, and each is tested before its own flip. -/
theorem drwXorsSpriteAndFlagsCollision : Obligations.DrwXorsSpriteAndFlagsCollision := by
  intro x y n s
  have hheight : n.toNat ≤ 32 := by have := n.toNat_lt; omega
  have hhit := hit_blitSprite_iff (readReg x s) (readReg y s) hheight s
  refine ⟨decodeWord_drw x y n, _, exec_drw x y n s, fun _ _ => fbGet_blitSprite_of_lights hheight,
    fun _ _ => fbGet_blitSprite_of_not_lights, ?collision, ?clear, rfl, rfl, onlyRegs_drawn _ s,
    onlyParts_drawn _ s⟩
  case collision =>
    intro h
    rw [readReg_flag_drawn, hhit.mpr h]
    rfl
  case clear =>
    intro h
    rw [readReg_flag_drawn, Bool.eq_false_iff.mpr (mt hhit.mp h)]
    rfl

/-- What a sprite lights depends on I and the bytes of memory alone. -/
theorem spriteLights_congr {s t : State} (hidx : t.idx = s.idx) (hmem : ∀ a, memRead a t = memRead a s)
    (x0 y0 : Byte) (n : Nat) (cx : Fin 64) (cy : Fin 32) :
    SpriteLights t x0 y0 n cx cy ↔ SpriteLights s x0 y0 n cx cy := by
  simp only [SpriteLights, hidx, hmem]

/-- Settles O3: the first draw leaves V[X], V[Y], I and memory, so the second flips the same cells back and meets the
complement of each. -/
theorem drawingTwiceRestoresScreen : Obligations.DrawingTwiceRestoresScreen := by
  intro x y n s hx hy
  obtain ⟨-, t, hst, hlit, hunlit, -, -, -, -, hregs, hparts⟩ := drwXorsSpriteAndFlagsCollision x y n s
  obtain ⟨-, u, htu, hlit', hunlit', hset, hclear, -⟩ := drwXorsSpriteAndFlagsCollision x y n t
  rw [hregs x (by simpa using hx), hregs y (by simpa using hy)] at hlit' hunlit' hset hclear
  simp only [spriteLights_congr (hparts .idx (by simp)) (hparts .mem (by simp))] at hlit' hunlit' hset hclear
  have hcollides : (∃ (cx : Fin 64) (cy : Fin 32), SpriteLights s (readReg x s) (readReg y s) n.toNat cx cy ∧
        fbGet cx cy t.fb = true) ↔
      ∃ (cx : Fin 64) (cy : Fin 32), SpriteLights s (readReg x s) (readReg y s) n.toNat cx cy ∧
        fbGet cx cy s.fb = false :=
    exists_congr fun cx => exists_congr fun cy => and_congr_right fun h => by rw [hlit cx cy h, Bool.not_eq_true']
  rw [hcollides] at hset hclear
  refine ⟨t, u, hst, htu, fun cx cy => ?_, hset, hclear⟩
  by_cases h : SpriteLights s (readReg x s) (readReg y s) n.toNat cx cy
  · rw [hlit' cx cy h, hlit cx cy h, Bool.not_not]
  · rw [hunlit' cx cy h, hunlit cx cy h]

end Sys2Proof.Machine
end

section
/-! SUPPORT. What an instruction can do, said once for all of them: when it takes a fatal error, what it does to the
status, and which registers and parts it may write; and the obligations on fatal errors and on writers
(spec/10_state.md sections 1 and 11, spec/60_exceptions.md R96 to R104). -/

namespace Sys2Proof.Machine

/-! ## The branches of the instructions that have more than one -/

/-- s frozen by a fatal error (spec/60_exceptions.md R96). -/
def halt (kind : ErrorKind) (op : Word) (s : State) : State :=
  { s with status := .halted { kind := kind, op := op, pc := s.pc } }

theorem sp_lt_or_eq (s : State) : s.sp.val < 16 ∨ s.sp.val = 16 :=
  Nat.lt_or_eq_of_le (Nat.le_of_lt_succ s.sp.isLt)

theorem exec_ret_cases {ign : Nib} {s t : State} (h : exec (.ret ign) s = .next t) :
    (s.sp.val = 0 ∧ t = halt .stackUnderflow (encode (.ret ign)) s) ∨ ∃ hpos : 0 < s.sp.val, t = returned s hpos := by
  rcases Nat.eq_zero_or_pos s.sp.val with hsp | hsp
  · rw [exec_ret_of_empty ign hsp, raiseError_eq] at h
    exact .inl ⟨hsp, (Host.Outcome.next.inj h).symm⟩
  · rw [exec_ret_of_pos ign hsp] at h
    exact .inr ⟨hsp, (Host.Outcome.next.inj h).symm⟩

theorem exec_call_cases {nnn : Lit12} {s t : State} (h : exec (.call nnn) s = .next t) :
    (s.sp.val = 16 ∧ t = halt .stackOverflow (encode (.call nnn)) s) ∨ ∃ hlt : s.sp.val < 16, t = called nnn s hlt := by
  rcases sp_lt_or_eq s with hsp | hsp
  · rw [exec_call_of_lt nnn hsp] at h
    exact .inr ⟨hsp, (Host.Outcome.next.inj h).symm⟩
  · rw [exec_call_of_full nnn hsp, raiseError_eq] at h
    exact .inl ⟨hsp, (Host.Outcome.next.inj h).symm⟩

theorem exec_skp_cases {x : Nib} {s t : State} (h : exec (.skp x) s = .next t) :
    (15 < (readReg x s).toNat ∧ t = halt .keyIndexOutOfRange (encode (.skp x)) s) ∨
    ((readReg x s).toNat ≤ 15 ∧ ∃ target, t = jumpTo target s) := by
  rcases Nat.lt_or_ge 15 (readReg x s).toNat with hx | hx
  · rw [exec_skp_of_gt hx, raiseError_eq] at h
    exact .inl ⟨hx, (Host.Outcome.next.inj h).symm⟩
  · rw [exec_skp_of_le hx, skipIf_eq_jumpTo] at h
    exact .inr ⟨hx, _, (Host.Outcome.next.inj h).symm⟩

theorem exec_sknp_cases {x : Nib} {s t : State} (h : exec (.sknp x) s = .next t) :
    (15 < (readReg x s).toNat ∧ t = halt .keyIndexOutOfRange (encode (.sknp x)) s) ∨
    ((readReg x s).toNat ≤ 15 ∧ ∃ target, t = jumpTo target s) := by
  rcases Nat.lt_or_ge 15 (readReg x s).toNat with hx | hx
  · rw [exec_sknp_of_gt hx, raiseError_eq] at h
    exact .inl ⟨hx, (Host.Outcome.next.inj h).symm⟩
  · rw [exec_sknp_of_le hx, skipIf_eq_jumpTo] at h
    exact .inr ⟨hx, _, (Host.Outcome.next.inj h).symm⟩

theorem exec_ldVxK_cases {x : Nib} {s t : State} (h : exec (.ldVxK x) s = .next t) :
    t = { s with status := .awaitingKey } ∨ ∃ k, t = keyTaken x k s := by
  cases hkeys : pressedKeys s with
  | nil =>
    rw [exec_ldVxK_of_nil x hkeys] at h
    exact .inl (Host.Outcome.next.inj h).symm
  | cons k ks =>
    rw [exec_ldVxK_of_cons x hkeys] at h
    exact .inr ⟨_, (Host.Outcome.next.inj h).symm⟩

/-- What holds of the state that an instruction answers holds of its next state. -/
theorem of_next_eq {P : State → Prop} {s t : State} (h : (.next s : Result) = .next t) (hs : P s) : P t :=
  Host.Outcome.next.inj h ▸ hs

/-- Every instruction answers a next state, also where it takes a fatal error. -/
theorem exec_next (i : Instr) (s : State) : ∃ t, exec i s = .next t := by
  cases i with
  | ret ign =>
    rcases Nat.eq_zero_or_pos s.sp.val with hsp | hsp
    · exact ⟨_, exec_ret_of_empty ign hsp⟩
    · exact ⟨_, exec_ret_of_pos ign hsp⟩
  | call nnn =>
    rcases sp_lt_or_eq s with hsp | hsp
    · exact ⟨_, exec_call_of_lt nnn hsp⟩
    · exact ⟨_, exec_call_of_full nnn hsp⟩
  | skp x =>
    rcases Nat.lt_or_ge 15 (readReg x s).toNat with hx | hx
    · exact ⟨_, exec_skp_of_gt hx⟩
    · exact ⟨_, exec_skp_of_le hx⟩
  | sknp x =>
    rcases Nat.lt_or_ge 15 (readReg x s).toNat with hx | hx
    · exact ⟨_, exec_sknp_of_gt hx⟩
    · exact ⟨_, exec_sknp_of_le hx⟩
  | ldVxK x =>
    cases hkeys : pressedKeys s with
    | nil => exact ⟨_, exec_ldVxK_of_nil x hkeys⟩
    | cons k ks => exact ⟨_, exec_ldVxK_of_cons x hkeys⟩
  | _ => exact ⟨_, rfl⟩

/-! ## Fatal errors -/

/-- The error kind that i takes at s, by the table of spec/60_exceptions.md R96. -/
def raisedKind (i : Instr) (s : State) : Option ErrorKind :=
  match i with
  | .sys _ => some .unsupportedInstruction
  | .call _ => if s.sp.val = 16 then some .stackOverflow else none
  | .ret _ => if s.sp.val = 0 then some .stackUnderflow else none
  | .skp x | .sknp x => if 15 < (readReg x s).toNat then some .keyIndexOutOfRange else none
  | _ => none

theorem raisedKind_eq_some_iff (i : Instr) (s : State) (kind : ErrorKind) :
    raisedKind i s = some kind ↔
      (kind = .unsupportedInstruction ∧ ∃ nnn, i = .sys nnn) ∨
      (kind = .stackOverflow ∧ s.sp.val = 16 ∧ ∃ nnn, i = .call nnn) ∨
      (kind = .stackUnderflow ∧ s.sp.val = 0 ∧ ∃ ign, i = .ret ign) ∨
      (kind = .keyIndexOutOfRange ∧ ∃ x, (readReg x s).toNat > 0x0F ∧ (i = .skp x ∨ i = .sknp x)) := by
  cases i <;> simp [raisedKind, eq_comm, and_comm]

/-- What an instruction that takes no fatal error does to the status: only LD Vx, K writes it (spec/10_state.md R24). -/
def CompletesStatus (i : Instr) (s t : State) : Prop :=
  (t.status = s.status ∧ ∀ x, i ≠ .ldVxK x) ∨
  ∃ x, i = .ldVxK x ∧ (t = { s with status := .awaitingKey } ∨ t.status = .running)

/-- An instruction halts the core with its own word and pc, on the table's condition, or it completes. -/
theorem exec_cases {i : Instr} {s t : State} (h : exec i s = .next t) :
    (∃ kind, raisedKind i s = some kind ∧ t = halt kind (encode i) s) ∨
    (raisedKind i s = none ∧ CompletesStatus i s t) := by
  cases i with
  | sys nnn => exact .inl ⟨_, rfl, (Host.Outcome.next.inj h).symm⟩
  | ret ign =>
    obtain ⟨hsp, rfl⟩ | ⟨hsp, rfl⟩ := exec_ret_cases h
    · exact .inl ⟨_, if_pos hsp, rfl⟩
    · exact .inr ⟨if_neg hsp.ne', .inl ⟨rfl, nofun⟩⟩
  | call nnn =>
    obtain ⟨hsp, rfl⟩ | ⟨hsp, rfl⟩ := exec_call_cases h
    · exact .inl ⟨_, if_pos hsp, rfl⟩
    · exact .inr ⟨if_neg hsp.ne, .inl ⟨rfl, nofun⟩⟩
  | skp x =>
    obtain ⟨hx, rfl⟩ | ⟨hx, target, rfl⟩ := exec_skp_cases h
    · exact .inl ⟨_, if_pos hx, rfl⟩
    · exact .inr ⟨if_neg (Nat.not_lt.mpr hx), .inl ⟨rfl, nofun⟩⟩
  | sknp x =>
    obtain ⟨hx, rfl⟩ | ⟨hx, target, rfl⟩ := exec_sknp_cases h
    · exact .inl ⟨_, if_pos hx, rfl⟩
    · exact .inr ⟨if_neg (Nat.not_lt.mpr hx), .inl ⟨rfl, nofun⟩⟩
  | ldVxK x =>
    obtain rfl | ⟨k, rfl⟩ := exec_ldVxK_cases h
    · exact .inr ⟨rfl, .inr ⟨x, rfl, .inl rfl⟩⟩
    · exact .inr ⟨rfl, .inr ⟨x, rfl, .inr rfl⟩⟩
  | saveRegs x =>
    obtain rfl := Host.Outcome.next.inj h
    exact .inr ⟨rfl, .inl ⟨by rw [nextPc_status, storeRegs_eq], nofun⟩⟩
  | loadRegs x =>
    obtain rfl := Host.Outcome.next.inj h
    exact .inr ⟨rfl, .inl ⟨by rw [nextPc_status, fillRegs_eq], nofun⟩⟩
  | _ =>
    obtain rfl := Host.Outcome.next.inj h
    exact .inr ⟨rfl, .inl ⟨rfl, nofun⟩⟩

theorem CompletesStatus.notHalted {i : Instr} {s t : State} (h : CompletesStatus i s t) (hs : NotHalted s) :
    NotHalted t := by
  intro err ht
  obtain ⟨hst, -⟩ | ⟨x, -, rfl | hrun⟩ := h
  · exact hs err (hst ▸ ht)
  · cases ht
  · rw [hrun] at ht
    cases ht

/-- Settles O45: of the two outcomes of an instruction, only the fatal error halts a state that was not Halted. -/
theorem fatalErrorsChangeOnlyStatus : Obligations.FatalErrorsChangeOnlyStatus := by
  intro i s t err hs h ht
  obtain ⟨kind, -, rfl⟩ | ⟨-, hcompletes⟩ := exec_cases h
  · obtain rfl := Status.halted.inj ht
    exact ⟨rfl, rfl, rfl⟩
  · exact absurd ht (hcompletes.notHalted hs err)

/-- Settles O46: the record's kind is the one the table gives, and where the table gives none the core is not Halted. -/
theorem fatalErrorsAreExactlyTheTable : Obligations.FatalErrorsAreExactlyTheTable := by
  intro i s t hs h kind
  rw [← raisedKind_eq_some_iff]
  obtain ⟨kind', hkind', rfl⟩ | ⟨hnone, hcompletes⟩ := exec_cases h
  · rw [hkind', Option.some.injEq]
    constructor
    · rintro ⟨err, herr, rfl⟩
      obtain rfl := Status.halted.inj herr
      rfl
    · rintro rfl
      exact ⟨_, rfl, rfl⟩
  · rw [hnone]
    refine iff_of_false ?_ nofun
    rintro ⟨err, herr, -⟩
    exact hcompletes.notHalted hs err herr

/-! ## The registers and parts that each instruction may write -/

/-- The general registers that i may write (spec/10_state.md R13, spec/43_index_memory.md R89). -/
def writtenRegs : Instr → List Nib
  | .ldImm x _ | .addImm x _ | .ldReg x _ | .orReg x _ | .andReg x _ | .xorReg x _ | .rnd x _ | .ldVxDt x
  | .ldVxK x => [x]
  | .addReg x _ | .subReg x _ | .shr x _ | .subnReg x _ | .shl x _ => [x, 0xF]
  | .drw _ _ _ => [0xF]
  | .loadRegs x => allKeys.filter (· ≤ x)
  | _ => []

/-- The parts that i may write (spec/10_state.md section 11). -/
def writtenParts : Instr → List StatePart
  | .sys _ => [.status]
  | .cls _ | .drw _ _ _ => [.pc, .fb, .dirty]
  | .ret _ => [.status, .pc, .sp]
  | .call _ => [.status, .pc, .stack, .sp]
  | .skp _ | .sknp _ => [.status, .pc]
  | .ldVxK _ => [.pc, .status, .keyDraws]
  | .rnd _ _ => [.pc, .rngDraws]
  | .ldI _ | .addI _ | .ldF _ => [.pc, .idx]
  | .ldDtVx _ => [.pc, .dt]
  | .ldStVx _ => [.pc, .st]
  | .ldB _ | .saveRegs _ => [.pc, .mem]
  | _ => [.pc]

theorem OnlyParts.mono {l l' : List StatePart} {s t : State} (h : OnlyParts l s t) (hl : l ⊆ l') : OnlyParts l' s t :=
  fun p hp => h p fun hmem => hp (hl hmem)

theorem OnlyRegs.mono {l l' : List Nib} {s t : State} (h : OnlyRegs l s t) (hl : l ⊆ l') : OnlyRegs l' s t :=
  fun r hr => h r fun hmem => hr (hl hmem)

theorem onlyParts_setStatus (x : Status) (s : State) : OnlyParts [.status] s (setStatus x s) := by
  intro p hp
  cases p with
  | status => simp at hp
  | _ => simp [SamePart]

theorem onlyParts_halt (kind : ErrorKind) (op : Word) (s : State) : OnlyParts [.status] s (halt kind op s) :=
  onlyParts_setStatus _ s

theorem exec_onlyParts {i : Instr} {s t : State} (h : exec i s = .next t) : OnlyParts (writtenParts i) s t := by
  cases i with
  | ret ign =>
    obtain ⟨-, rfl⟩ | ⟨hsp, rfl⟩ := exec_ret_cases h
    · exact (onlyParts_halt _ _ s).mono (by simp [writtenParts])
    · exact (onlyParts_returned s hsp).mono (by simp [writtenParts])
  | call nnn =>
    obtain ⟨-, rfl⟩ | ⟨hsp, rfl⟩ := exec_call_cases h
    · exact (onlyParts_halt _ _ s).mono (by simp [writtenParts])
    · exact (onlyParts_called nnn s hsp).mono (by simp [writtenParts])
  | skp x =>
    obtain ⟨-, rfl⟩ | ⟨-, target, rfl⟩ := exec_skp_cases h
    · exact (onlyParts_halt _ _ s).mono (by simp [writtenParts])
    · exact (onlyParts_jumpTo target s).mono (by simp [writtenParts])
  | sknp x =>
    obtain ⟨-, rfl⟩ | ⟨-, target, rfl⟩ := exec_sknp_cases h
    · exact (onlyParts_halt _ _ s).mono (by simp [writtenParts])
    · exact (onlyParts_jumpTo target s).mono (by simp [writtenParts])
  | ldVxK x =>
    obtain rfl | ⟨k, rfl⟩ := exec_ldVxK_cases h
    · exact (onlyParts_setStatus .awaitingKey s).mono (by simp [writtenParts])
    · exact onlyParts_keyTaken x k s
  | sys nnn => exact of_next_eq h (onlyParts_setStatus _ s)
  | cls ign => exact of_next_eq h (onlyParts_redraw blankScreen s)
  | drw x y n => exact of_next_eq h (onlyParts_drawn _ s)
  | jp | seImm | sneImm | seReg | sneReg | jpV0 => exact of_next_eq h (onlyParts_jumpTo _ s)
  | ldImm | addImm | ldReg | orReg | andReg | xorReg | ldVxDt => exact of_next_eq h (onlyParts_writeReg_nextPc _ _ s)
  | addReg | subReg | shr | subnReg | shl => exact of_next_eq h (onlyParts_writeWithFlag_nextPc _ _ _ s)
  | rnd x nn => exact of_next_eq h (onlyParts_writeReg_dropRandom _ _ s)
  | ldI | addI | ldF => exact of_next_eq h (onlyParts_setIdx_nextPc _ s)
  | ldDtVx x => exact of_next_eq h (onlyParts_setDt_nextPc _ s)
  | ldStVx x => exact of_next_eq h (onlyParts_setSt_nextPc _ s)
  | ldB x => exact of_next_eq h (onlyParts_nextPc_of_mem rfl)
  | saveRegs x => exact of_next_eq h (onlyParts_nextPc_of_mem (storeRegs_eq _ s))
  | loadRegs x => exact of_next_eq h (onlyParts_nextPc_fillRegs _ s)

theorem onlyRegs_nextPc_fillRegs (x : Nib) (s : State) :
    OnlyRegs (allKeys.filter (· ≤ x)) s (nextPc (fillRegs (x.toNat + 1) s)) := by
  intro r hr
  have hrx : ¬r ≤ x := by simpa [mem_allKeys] using hr
  have hrx' : ¬r.toNat < x.toNat + 1 := fun h => hrx (Nat.le_of_lt_succ h)
  rw [readReg_nextPc, readReg_fillRegs x.toNat_lt, if_neg hrx']

theorem exec_onlyRegs {i : Instr} {s t : State} (h : exec i s = .next t) : OnlyRegs (writtenRegs i) s t := by
  cases i with
  | ret ign =>
    obtain ⟨-, rfl⟩ | ⟨hsp, rfl⟩ := exec_ret_cases h
    · exact fun _ _ => rfl
    · exact fun _ _ => rfl
  | call nnn =>
    obtain ⟨-, rfl⟩ | ⟨hsp, rfl⟩ := exec_call_cases h
    · exact fun _ _ => rfl
    · exact fun _ _ => rfl
  | skp x =>
    obtain ⟨-, rfl⟩ | ⟨-, target, rfl⟩ := exec_skp_cases h
    · exact fun _ _ => rfl
    · exact fun _ _ => rfl
  | sknp x =>
    obtain ⟨-, rfl⟩ | ⟨-, target, rfl⟩ := exec_sknp_cases h
    · exact fun _ _ => rfl
    · exact fun _ _ => rfl
  | ldVxK x =>
    obtain rfl | ⟨k, rfl⟩ := exec_ldVxK_cases h
    · exact fun _ _ => rfl
    · exact onlyRegs_keyTaken x k s
  | ldImm | addImm | ldReg | orReg | andReg | xorReg | ldVxDt => exact of_next_eq h (onlyRegs_writeReg _ _ s)
  | rnd => exact of_next_eq h (onlyRegs_writeReg _ _ (dropRandom s))
  | addReg | subReg | shr | subnReg | shl => exact of_next_eq h (onlyRegs_writeWithFlag_nextPc _ _ _ s)
  | drw x y n => exact of_next_eq h (onlyRegs_drawn _ s)
  | saveRegs x => exact of_next_eq h (onlyRegs_nextPc_of_mem (storeRegs_eq _ s))
  | loadRegs x => exact of_next_eq h (onlyRegs_nextPc_fillRegs x s)
  | _ => exact of_next_eq h fun _ _ => rfl

end Sys2Proof.Machine
end

section
/-! SUPPORT. Who writes what, from the two tables above, and what no instruction reads (spec/10_state.md sections 1, 5,
7, 8, 10 and 11): the obligations that state them. -/

namespace Sys2Proof.Machine

/-! ## The flag register -/

/-- The table of registers, read at VF (spec/10_state.md R13). -/
theorem flag_mem_writtenRegs {i : Instr} (h : 0xF ∈ writtenRegs i) :
    (∃ x y, i = .addReg x y ∨ i = .subReg x y ∨ i = .shr x y ∨ i = .subnReg x y ∨ i = .shl x y) ∨
    (∃ x y n, i = .drw x y n) ∨
    (∃ nn, i = .ldImm 0xF nn ∨ i = .addImm 0xF nn ∨ i = .rnd 0xF nn) ∨
    (∃ y, i = .ldReg 0xF y ∨ i = .orReg 0xF y ∨ i = .andReg 0xF y ∨ i = .xorReg 0xF y) ∨
    i = .ldVxDt 0xF ∨ i = .ldVxK 0xF ∨ i = .loadRegs 0xF := by
  cases i with
  | loadRegs x =>
    have hx : 0xF ≤ x := by simpa [writtenRegs, mem_allKeys] using h
    have hF : x = 0xF := BitVec.allOnes_le_iff.mp hx
    simp [hF]
  | _ => simp_all [writtenRegs]

/-- Settles O49: a register outside the table of the instruction's writes reads as before. -/
theorem flagRegisterHasOnlyItsWriters : Obligations.FlagRegisterHasOnlyItsWriters :=
  fun _ _ _ h hchanged => flag_mem_writtenRegs (by_contra fun hmem => hchanged (exec_onlyRegs h 0xF hmem))

/-! ## The stored parts and the parts at the edge -/

theorem samePart_or_mem_writtenParts {i : Instr} {s t : State} (h : exec i s = .next t) (p : StatePart) :
    SamePart s t p ∨ p ∈ writtenParts i :=
  or_iff_not_imp_right.mpr (exec_onlyParts h p)

theorem mem_mem_writtenParts {i : Instr} (h : .mem ∈ writtenParts i) : ∃ x, i = .ldB x ∨ i = .saveRegs x := by
  cases i <;> simp_all [writtenParts]

theorem idx_mem_writtenParts {i : Instr} (h : .idx ∈ writtenParts i) :
    (∃ nnn, i = .ldI nnn) ∨ ∃ x, i = .addI x ∨ i = .ldF x := by
  cases i <;> simp_all [writtenParts]

theorem stack_mem_writtenParts {i : Instr} (h : .stack ∈ writtenParts i) : ∃ nnn, i = .call nnn := by
  cases i <;> simp_all [writtenParts]

theorem sp_mem_writtenParts {i : Instr} (h : .sp ∈ writtenParts i) :
    (∃ nnn, i = .call nnn) ∨ ∃ ign, i = .ret ign := by
  cases i <;> simp_all [writtenParts]

theorem dt_mem_writtenParts {i : Instr} (h : .dt ∈ writtenParts i) : ∃ x, i = .ldDtVx x := by
  cases i <;> simp_all [writtenParts]

theorem st_mem_writtenParts {i : Instr} (h : .st ∈ writtenParts i) : ∃ x, i = .ldStVx x := by
  cases i <;> simp_all [writtenParts]

theorem fb_mem_writtenParts {i : Instr} (h : .fb ∈ writtenParts i) :
    (∃ ign, i = .cls ign) ∨ ∃ x y n, i = .drw x y n := by
  cases i <;> simp_all [writtenParts]

theorem dirty_mem_writtenParts {i : Instr} (h : .dirty ∈ writtenParts i) :
    (∃ ign, i = .cls ign) ∨ ∃ x y n, i = .drw x y n := by
  cases i <;> simp_all [writtenParts]

theorem keys_notMem_writtenParts (i : Instr) : .keys ∉ writtenParts i := by
  cases i <;> simp [writtenParts]

/-- Settles O50: each part is the same or stands in the table of the instruction's writes. -/
theorem storedPartsHaveOnlyTheirWriters : Obligations.StoredPartsHaveOnlyTheirWriters := by
  intro i s t h
  have hpart := samePart_or_mem_writtenParts h
  exact ⟨(hpart .mem).imp_right mem_mem_writtenParts, (hpart .idx).imp_right idx_mem_writtenParts,
    (hpart .stack).imp_right stack_mem_writtenParts, (hpart .sp).imp_right sp_mem_writtenParts,
    (hpart .dt).imp_right dt_mem_writtenParts, (hpart .st).imp_right st_mem_writtenParts⟩

/-- CLS and DRW raise Dirty, whatever it was (spec/10_state.md R22). -/
theorem dirty_of_redraw {i : Instr} {s t : State} (h : exec i s = .next t)
    (hi : (∃ ign, i = .cls ign) ∨ ∃ x y n, i = .drw x y n) : t.dirty = true := by
  obtain ⟨ign, rfl⟩ | ⟨x, y, n, rfl⟩ := hi
  · exact of_next_eq (P := fun t => t.dirty = true) h rfl
  · exact of_next_eq (P := fun t => t.dirty = true) h rfl

/-- Settles O51: the framebuffer, Dirty and the keys by the same table, with CLS and DRW raising Dirty. -/
theorem edgePartsHaveOnlyTheirWriters : Obligations.EdgePartsHaveOnlyTheirWriters := by
  intro i s t h
  have hpart := samePart_or_mem_writtenParts h
  refine ⟨(hpart .fb).imp_right fb_mem_writtenParts, ?dirty, exec_onlyParts h .keys (keys_notMem_writtenParts i)⟩
  case dirty =>
    constructor
    · intro ht
      obtain hsame | hmem := hpart .dirty
      · exact .inl (Eq.symm hsame ▸ ht)
      · exact .inr (dirty_mem_writtenParts hmem)
    · rintro (hs | hi)
      · obtain hsame | hmem := hpart .dirty
        · exact Eq.trans hsame hs
        · exact dirty_of_redraw h (dirty_mem_writtenParts hmem)
      · exact dirty_of_redraw h hi

/-! ## The parts that no instruction reads -/

/-- s with ST and Dirty replaced. -/
def withUnread (b : Byte) (d : Bool) (s : State) : State := { s with st := b, dirty := d }

theorem storeRegs_withUnread (n : Nat) (b : Byte) (d : Bool) (s : State) :
    storeRegs n (withUnread b d s) = withUnread b d (storeRegs n s) := by
  induction n with
  | zero => rfl
  | succ n ih =>
    rw [storeRegs_succ, storeRegs_succ, ih]
    rfl

theorem fillRegs_withUnread (n : Nat) (b : Byte) (d : Bool) (s : State) :
    fillRegs n (withUnread b d s) = withUnread b d (fillRegs n s) := by
  induction n with
  | zero => rfl
  | succ n ih =>
    rw [fillRegs_succ, fillRegs_succ, ih]
    rfl

/-- Settles O52: every test and every value that an instruction uses is the same with other ST and Dirty, and the
updates carry the two parts along or overwrite them. -/
theorem soundTimerAndDirtyAreUnread : Obligations.SoundTimerAndDirtyAreUnread := by
  intro i s b d
  change ∃ t u, exec i s = .next t ∧ exec i (withUnread b d s) = .next u ∧ u = withUnread u.st u.dirty t
  cases i with
  | ret ign =>
    rcases Nat.eq_zero_or_pos s.sp.val with hsp | hsp
    · exact ⟨_, _, exec_ret_of_empty ign hsp, exec_ret_of_empty ign hsp, rfl⟩
    · exact ⟨_, _, exec_ret_of_pos ign hsp, exec_ret_of_pos (s := withUnread b d s) ign hsp, rfl⟩
  | call nnn =>
    rcases sp_lt_or_eq s with hsp | hsp
    · exact ⟨_, _, exec_call_of_lt nnn hsp, exec_call_of_lt (s := withUnread b d s) nnn hsp, rfl⟩
    · exact ⟨_, _, exec_call_of_full nnn hsp, exec_call_of_full nnn hsp, rfl⟩
  | skp x =>
    rcases Nat.lt_or_ge 15 (readReg x s).toNat with hx | hx
    · exact ⟨_, _, exec_skp_of_gt hx, exec_skp_of_gt hx, rfl⟩
    · exact ⟨_, _, exec_skp_of_le hx, exec_skp_of_le hx, rfl⟩
  | sknp x =>
    rcases Nat.lt_or_ge 15 (readReg x s).toNat with hx | hx
    · exact ⟨_, _, exec_sknp_of_gt hx, exec_sknp_of_gt hx, rfl⟩
    · exact ⟨_, _, exec_sknp_of_le hx, exec_sknp_of_le hx, rfl⟩
  | ldVxK x =>
    cases hkeys : pressedKeys s with
    | nil => exact ⟨_, _, exec_ldVxK_of_nil x hkeys, exec_ldVxK_of_nil x hkeys, rfl⟩
    | cons k ks => exact ⟨_, _, exec_ldVxK_of_cons x hkeys, exec_ldVxK_of_cons x hkeys, rfl⟩
  | saveRegs x =>
    refine ⟨_, _, exec_saveRegs x s, exec_saveRegs x _, ?_⟩
    rw [storeRegs_withUnread]
    rfl
  | loadRegs x =>
    refine ⟨_, _, exec_loadRegs x s, exec_loadRegs x _, ?_⟩
    rw [fillRegs_withUnread]
    rfl
  | _ => exact ⟨_, _, rfl, rfl, rfl⟩

end Sys2Proof.Machine
end

section
/-! SUPPORT. Cycles and steps (spec/30_encoding.md R55, R56, spec/60_exceptions.md R96, R97), and the machine's
invariant: the obligations that state them. -/

namespace Sys2Proof.Machine

/-! ## Cycles and steps -/

theorem isHalted_eq_false_of_notHalted {s : State} (hs : NotHalted s) : isHalted s = false :=
  Bool.eq_false_iff.mpr fun h => let ⟨err, herr⟩ := (isHalted_iff s).mp h; hs err herr

theorem step_of_notHalted {s : State} (hs : NotHalted s) : step s = thenGap (cycle s) :=
  step_of_not_halted (isHalted_eq_false_of_notHalted hs)

theorem cycle_of_decode {s : State} {i : Instr} (hi : decodeWord (fetchWord s) = .ok i) : cycle s = exec i s := by
  simp only [cycle, hi]

theorem cycle_of_undecoded {s : State} (h : ∃ e, decodeWord (fetchWord s) = .error e) :
    cycle s = .next (halt .unknownInstruction (fetchWord s) s) := by
  obtain ⟨e, he⟩ := h
  obtain rfl := decodeWord_error he
  simp only [cycle, he, raiseError_eq, halt]

/-- Nothing happens after a fatal error (spec/60_exceptions.md R105). -/
theorem betweenCycles_halt (kind : ErrorKind) (op : Word) (s : State) :
    betweenCycles (halt kind op s) = halt kind op s := betweenCycles_of_halted rfl

/-- Settles O41: of the two cases of a cycle, the word that decodes runs its instruction. -/
theorem stepRunsDecodedInstruction : Obligations.StepRunsDecodedInstruction := by
  intro s i hs hi
  rw [step_of_notHalted hs, cycle_of_decode hi]
  cases exec i s <;> rfl

/-- Settles O42: the undefined words are the ones that do not decode, and no gap follows the halt. -/
theorem undefinedWordHaltsWithRecord : Obligations.UndefinedWordHaltsWithRecord := by
  intro s hs hw
  rw [step_of_notHalted hs, cycle_of_undecoded ((undecodedWordsAreUndefined _).mpr hw), thenGap, betweenCycles_halt,
    halt]

/-- Settles O43: step tests for Halted before it runs a cycle. -/
theorem haltedRunsNoCycle : Obligations.HaltedRunsNoCycle :=
  fun _ _ h => step_of_halted h

/-- Every cycle has a next state: a word with no handler and a fatal error have one too. -/
theorem cycle_next (s : State) : ∃ t, cycle s = .next t := by
  obtain ⟨i, -, hcycle⟩ | ⟨-, hcycle⟩ := cycle_cases s
  · rw [hcycle]
    exact exec_next i s
  · exact ⟨_, hcycle⟩

/-- Settles O44: a step that runs a cycle answers the cycle's next state after the gap. -/
theorem everyRunningStateSteps : Obligations.EveryRunningStateSteps := by
  intro s hs
  obtain ⟨t, ht⟩ := cycle_next s
  rw [step_of_notHalted hs, ht]
  exact ⟨_, rfl⟩

/-- Settles O58: the jump writes to pc the value that it holds. -/
theorem selfJumpKeepsState : Obligations.SelfJumpKeepsState := by
  intro nnn s hfetch hpc
  have hdecode : decodeWord (fetchWord s) = .ok (.jp nnn) := hfetch ▸ decodeWord_jp nnn
  have htarget : literal16 nnn = s.pc := BitVec.eq_of_toNat_eq ((literal16_toNat nnn).trans hpc.symm)
  rw [cycle_of_decode hdecode, exec_jp, htarget, jumpTo]

/-! ## Memory keeps its canonical form -/

theorem wf_storeRegs (n : Nat) {s : State} (hs : Memory.wf s.mem = true) : Memory.wf (storeRegs n s).mem = true := by
  induction n with
  | zero => exact hs
  | succ n ih =>
    rw [storeRegs_succ]
    exact wf_memWrite _ _ ih

/-- LD B and LD [I], Vx store through memory writes, and no other instruction touches memory. -/
theorem wf_of_exec {i : Instr} {s t : State} (h : exec i s = .next t) (hs : Memory.wf s.mem = true) :
    Memory.wf t.mem = true := by
  cases i with
  | ldB x =>
    obtain rfl := Host.Outcome.next.inj h
    exact wf_memWrite _ _ (wf_memWrite _ _ (wf_memWrite _ _ hs))
  | saveRegs x =>
    obtain rfl := Host.Outcome.next.inj h
    exact wf_storeRegs _ hs
  | loadRegs x =>
    obtain rfl := Host.Outcome.next.inj h
    rwa [nextPc_mem, fillRegs_eq]
  | ret ign => obtain ⟨-, rfl⟩ | ⟨_, rfl⟩ := exec_ret_cases h <;> exact hs
  | call nnn => obtain ⟨-, rfl⟩ | ⟨_, rfl⟩ := exec_call_cases h <;> exact hs
  | skp x => obtain ⟨-, rfl⟩ | ⟨-, _, rfl⟩ := exec_skp_cases h <;> exact hs
  | sknp x => obtain ⟨-, rfl⟩ | ⟨-, _, rfl⟩ := exec_sknp_cases h <;> exact hs
  | ldVxK x => obtain rfl | ⟨_, rfl⟩ := exec_ldVxK_cases h <;> exact hs
  | _ => exact of_next_eq (P := fun t => Memory.wf t.mem = true) h hs

/-! ## The invariant -/

/-- The invariant reads the registers, pc, SP, memory and the status alone. -/
theorem MachineInv.congr {s t : State} (hs : MachineInv s) (hv : t.v = s.v) (hpc : t.pc = s.pc) (hsp : t.sp = s.sp)
    (hmem : t.mem = s.mem) (hstatus : t.status = s.status) : MachineInv t := by
  have hfetch : fetchWord t = fetchWord s := by simp only [fetchWord, memRead, hpc, hmem]
  have hrecord : ∀ kind, RecordExplained s kind → RecordExplained t kind := by
    intro kind h
    cases kind with
    | loadOverflow => exact h
    | _ => simpa only [RecordExplained, hfetch, hsp, readReg, hv] using h
  obtain ⟨hwf, hawaits, hhalted⟩ := hs
  refine ⟨hmem ▸ hwf, fun h => ?awaiting, fun err h => ?halted⟩
  case awaiting => exact hfetch ▸ hawaits (hstatus ▸ h)
  case halted =>
    obtain ⟨herrpc, herrop, hexplained⟩ := hhalted err (hstatus ▸ h)
    exact ⟨herrpc.trans hpc.symm, herrop.trans hfetch.symm, hrecord err.kind hexplained⟩

theorem MachineInv.betweenCycles {s : State} (hs : MachineInv s) : MachineInv (betweenCycles s) := by
  obtain h | h := betweenCycles_eq s
  · rwa [h]
  · rw [h]
    exact hs.congr rfl rfl rfl rfl rfl

/-- A fatal error keeps the invariant when its record holds the fetched word and its kind's condition is met. -/
theorem machineInv_halt {s : State} {kind : ErrorKind} (hwf : Memory.wf s.mem = true) (h : RecordExplained s kind) :
    MachineInv (halt kind (fetchWord s) s) := by
  have hrecord : RecordExplained (halt kind (fetchWord s) s) kind := by
    cases kind <;> exact h
  refine ⟨hwf, nofun, fun err herr => ?_⟩
  obtain rfl := Status.halted.inj herr
  exact ⟨rfl, rfl, hrecord⟩

/-- The condition on which the decoded instruction raises a kind is the one that explains its record. -/
theorem recordExplained_of_raisedKind {i : Instr} {s : State} {kind : ErrorKind}
    (hdecode : decodeWord (fetchWord s) = .ok i) (h : raisedKind i s = some kind) : RecordExplained s kind := by
  obtain ⟨rfl, nnn, rfl⟩ | ⟨rfl, hsp, nnn, rfl⟩ | ⟨rfl, hsp, ign, rfl⟩ | ⟨rfl, x, hx, rfl | rfl⟩ :=
    (raisedKind_eq_some_iff i s kind).mp h
  · exact ⟨nnn, hdecode⟩
  · exact ⟨hsp, nnn, hdecode⟩
  · exact ⟨hsp, ign, hdecode⟩
  · exact ⟨x, hx, .inl hdecode⟩
  · exact ⟨x, hx, .inr hdecode⟩

/-- An instruction that completes leaves Running, or AwaitingKey at its own FX0A. -/
theorem machineInv_of_completes {i : Instr} {s t : State} (hs : MachineInv s) (hrunning : NotHalted s)
    (hdecode : decodeWord (fetchWord s) = .ok i) (hwf : Memory.wf t.mem = true) (h : CompletesStatus i s t) :
    MachineInv t := by
  obtain ⟨-, hawaits, -⟩ := hs
  refine ⟨hwf, fun ht => ?awaiting, fun err ht => absurd ht (h.notHalted hrunning err)⟩
  case awaiting =>
    obtain ⟨hst, hother⟩ | ⟨x, rfl, rfl | hrun⟩ := h
    · obtain ⟨x, hx⟩ := hawaits (hst ▸ ht)
      exact absurd (Except.ok.inj (hdecode.symm.trans hx)) (hother x)
    · exact ⟨x, hdecode⟩
    · rw [hrun] at ht
      cases ht

theorem machineInv_of_cycle {s t : State} (hs : MachineInv s) (hrunning : NotHalted s) (h : cycle s = .next t) :
    MachineInv t := by
  have hwf : Memory.wf s.mem = true := hs.1
  obtain ⟨i, hdecode, hcycle⟩ | ⟨hdecode, hcycle⟩ := cycle_cases s
  · have hexec : exec i s = .next t := hcycle.symm.trans h
    obtain ⟨kind, hkind, rfl⟩ | ⟨-, hcompletes⟩ := exec_cases hexec
    · obtain ⟨-, hencode⟩ := encodeWritesDecode _ _ hdecode
      rw [hencode]
      exact machineInv_halt hwf (recordExplained_of_raisedKind hdecode hkind)
    · exact machineInv_of_completes hs hrunning hdecode (wf_of_exec hexec hwf) hcompletes
  · exact of_next_eq (hcycle.symm.trans h) (machineInv_halt hwf hdecode)

/-- Settles O47: no step leaves Halted, a cycle keeps the invariant, and a gap touches nothing that it reads. -/
theorem stepKeepsInvariant : Obligations.StepKeepsInvariant := by
  intro s t hs h
  have hrunning : NotHalted s := fun err herr => by
    rw [step_of_halted herr] at h
    cases h
  obtain ⟨u, hu⟩ := cycle_next s
  rw [step_of_notHalted hrunning, hu] at h
  exact of_next_eq h (machineInv_of_cycle hs hrunning hu).betweenCycles

/-- Settles O48: at reset memory lists no cell and the status is Running. -/
theorem resetHasInvariant : Obligations.ResetHasInvariant :=
  ⟨wf_reset, nofun, nofun⟩

end Sys2Proof.Machine
end

section
/-! SUPPORT. The timer clock, the gap between two cycles, the program load, reset, and the canonical form of memory
(spec/60_exceptions.md R102 to R115, spec/70_reset_and_hazards.md R120 to R122): the obligations that state them. -/

namespace Sys2Proof.Machine

/-! ## n ticks -/

theorem ticks_succ (n : Nat) (s : State) : ticks (n + 1) s = ticks n (tick s) := rfl

theorem ticks_eq_iterate (n : Nat) (s : State) : ticks n s = Nat.iterate tick n s := by
  induction n generalizing s with
  | zero => rfl
  | succ n ih => rw [ticks_succ, ih, Function.iterate_succ_apply]

theorem countDownBy_toNat (n : Nat) (t : Byte) : (countDownBy n t).toNat = t.toNat - n := by
  induction n generalizing t with
  | zero => rfl
  | succ n ih =>
    rw [countDownBy, ih, countDown_toNat]
    omega

/-- Settles O54: a tick of both timers is a tick of each, and each stops at 0. -/
theorem ticksStopAtZero : Obligations.TicksStopAtZero :=
  fun n s => ⟨ticks_eq_iterate n s, countDownBy_toNat n s.dt, countDownBy_toNat n s.st⟩

/-! ## The gap -/

theorem writeKeys_cons (w : Nib × Bool) (ws : List (Nib × Bool)) (s : State) :
    writeKeys (w :: ws) s = writeKeys ws (writeKey w.1 w.2 s) := rfl

theorem keyDown_writeKeys_of_unwritten {ws : List (Nib × Bool)} {k : Nib} (h : ∀ w ∈ ws, w.1 ≠ k) (s : State) :
    keyDown k (writeKeys ws s) = keyDown k s := by
  induction ws generalizing s with
  | nil => rfl
  | cons w ws ih =>
    obtain ⟨hw, hws⟩ := List.forall_mem_cons.mp h
    rw [writeKeys_cons, ih hws, keyDown_writeKey, if_neg hw.symm]

theorem writeKeys_append (ws ws' : List (Nib × Bool)) (s : State) :
    writeKeys (ws ++ ws') s = writeKeys ws' (writeKeys ws s) := by
  simp only [writeKeys, List.foldl_append]

/-- The last write to a key stands. -/
theorem keyDown_writeKeys_last (ws : List (Nib × Bool)) {ws' : List (Nib × Bool)} {k : Nib} (b : Bool)
    (h : ∀ w ∈ ws', w.1 ≠ k) (s : State) : keyDown k (writeKeys (ws ++ (k, b) :: ws') s) = b := by
  rw [writeKeys_append, writeKeys_cons, keyDown_writeKeys_of_unwritten h, keyDown_writeKey, if_pos rfl]

theorem betweenCycles_of_notHalted {s : State} (hs : NotHalted s) :
    betweenCycles s = applyGap (nextGap s) (dropGap s) := by
  rw [betweenCycles, isHalted_eq_false_of_notHalted hs]
  rfl

theorem keyDown_applyGap (k : Nib) (g : Gap) (s : State) :
    keyDown k (applyGap g s) = keyDown k (writeKeys g.keyWrites s) := rfl

theorem onlyParts_betweenCycles (s : State) : OnlyParts [.dt, .st, .keys, .dirty, .host] s (betweenCycles s) := by
  intro p hp
  obtain h | h := betweenCycles_eq s
  · rw [h]
    cases p <;> simp [SamePart]
  · rw [h]
    cases p with
    | dt | st | keys | dirty | host => simp at hp
    | mem => exact fun _ => rfl
    | _ => simp [SamePart]

theorem onlyRegs_betweenCycles (s : State) : OnlyRegs [] s (betweenCycles s) := by
  intro r _
  obtain h | h := betweenCycles_eq s
  · rw [h]
  · rw [h]
    rfl

/-- Settles O55: the gap is the ticks, the key writes and the consume of Dirty, each on its own part. -/
theorem gapTouchesOnlyTimersKeysDirty : Obligations.GapTouchesOnlyTimersKeysDirty := by
  intro s
  refine ⟨onlyRegs_betweenCycles s, onlyParts_betweenCycles s, fun ⟨_, herr⟩ => betweenCycles_of_halted herr,
    fun hs => ?_⟩
  rw [betweenCycles_of_notHalted hs]
  refine ⟨countDownBy_toNat _ s.dt, countDownBy_toNat _ s.st, ?dirty, ?unwritten, ?last⟩
  case dirty => simp [applyGap]
  case unwritten =>
    intro k hk
    rw [keyDown_applyGap, keyDown_writeKeys_of_unwritten hk, keyDown_dropGap]
  case last =>
    intro ws ws' k b hwrites hk
    rw [keyDown_applyGap, hwrites, keyDown_writeKeys_last ws b hk]

/-! ## The program load -/

/-- The image lies at consecutive cells, and every other cell is as before. -/
theorem read_storeImage_other {image : List Byte} {a c : Nat} (hc : ∀ j < image.length, c ≠ a + j) (m : Memory) :
    Memory.read (storeImage a image m) c = Memory.read m c := by
  induction image generalizing a m with
  | nil => rfl
  | cons b rest ih =>
    have hhead : c ≠ a := hc 0 (Nat.succ_pos _)
    have hrest : ∀ j < rest.length, c ≠ a + 1 + j := fun j hj => by
      have := hc (j + 1) (Nat.succ_lt_succ hj)
      omega
    rw [storeImage, ih hrest, Memory.read_write, if_neg hhead]

theorem read_storeImage (image : List Byte) (a : Nat) (m : Memory) (j : Nat) (hj : j < image.length) :
    Memory.read (storeImage a image m) (a + j) = image[j] := by
  induction image generalizing a m j with
  | nil => cases hj
  | cons b rest ih =>
    rw [storeImage]
    cases j with
    | zero =>
      have hother : ∀ j < rest.length, a + 0 ≠ a + 1 + j := fun j _ => by omega
      rw [read_storeImage_other hother, Memory.read_write, if_pos (Nat.add_zero a), List.getElem_cons_zero]
    | succ j =>
      have hcell : a + (j + 1) = a + 1 + j := by omega
      rw [hcell, List.getElem_cons_succ]
      exact ih (a + 1) _ j (Nat.lt_of_succ_lt_succ hj)

theorem cellOf_ofNat {a : Nat} (ha : a < 4096) : cellOf (BitVec.ofNat 16 a) = a := by
  rw [cellOf, BitVec.toNat_ofNat, Config.memorySize]
  omega

theorem onlyParts_setMem (m : Memory) (s : State) : OnlyParts [.mem] s { s with mem := m } := by
  intro p hp
  cases p with
  | mem => simp at hp
  | keys => exact fun _ => rfl
  | _ => simp [SamePart]

/-- Settles O56: an image that fits stays below 4096, so its addresses are its cells. -/
theorem loadCopiesImageOrOverflows : Obligations.LoadCopiesImageOrOverflows := by
  intro image s
  refine ⟨fun hfits => ⟨_, if_neg (Nat.not_lt.mpr hfits), ?image, ?other, fun _ _ => rfl, onlyParts_setMem _ s⟩,
    fun hlong => if_pos hlong⟩
  case image =>
    intro j hj
    have hcell : cellOf (BitVec.ofNat 16 (0x200 + j)) = 0x200 + j := cellOf_ofNat (by omega)
    rw [memRead, hcell]
    exact read_storeImage image 0x200 s.mem j hj
  case other =>
    intro a ha
    exact read_storeImage_other ha s.mem

/-! ## Reset -/

/-- Past the font every cell is reset to zero (spec/70_reset_and_hazards.md R120). -/
theorem initial_of_le {a : Nat} (ha : 80 ≤ a) : Memory.initial a = 0x00 :=
  List.getD_eq_default _ _ ha

theorem memRead_reset (a : Word) : memRead a State.reset = Memory.initial (cellOf a) := rfl

/-- Settles O57: each element is read off the reset state, memory as the font and zero past it. -/
theorem resetGivesListedValues : Obligations.ResetGivesListedValues := by
  refine ⟨?regs, rfl, rfl, ?stack, rfl, rfl, rfl, ?font, ?zero, fbGet_blankScreen, rfl, ?keys, rfl⟩
  case regs =>
    intro r
    simp [readReg, State.reset]
  case stack =>
    intro j
    simp [State.reset]
  case font => decide
  case zero =>
    intro a hfont hmem
    have hcell : cellOf a = a.toNat := Nat.mod_eq_of_lt hmem
    rw [memRead_reset, hcell, initial_of_le hfont]
  case keys =>
    intro k
    simp [keyDown, State.reset]

/-! ## The canonical form of memory -/

theorem wfFrom_cons_iff (lo k : Nat) (b : Byte) (rest : Memory) :
    Memory.wfFrom lo ((k, b) :: rest) = true ↔
      lo ≤ k ∧ k < 4096 ∧ b ≠ Memory.initial k ∧ Memory.wfFrom (k + 1) rest = true := by
  simp only [Memory.wfFrom, Bool.and_eq_true, decide_eq_true_eq, and_assoc]

/-- A memory canonical from `lo` on lists no cell below `lo`. -/
theorem read_of_lt_wfFrom {m : Memory} {lo a : Nat} (hm : Memory.wfFrom lo m = true) (ha : a < lo) :
    Memory.read m a = Memory.initial a := by
  induction m generalizing lo with
  | nil => rfl
  | cons c rest ih =>
    obtain ⟨k, b⟩ := c
    obtain ⟨hlo, -, -, hrest⟩ := (wfFrom_cons_iff lo k b rest).mp hm
    rw [Memory.read, if_neg (by omega)]
    exact ih hrest (by omega)

theorem read_cons_same (k : Nat) (b : Byte) (rest : Memory) : Memory.read ((k, b) :: rest) k = b := if_pos rfl

theorem read_cons_other {k a : Nat} (b : Byte) (rest : Memory) (h : a ≠ k) :
    Memory.read ((k, b) :: rest) a = Memory.read rest a := if_neg h

/-- The first listed cell differs from its reset contents, so a memory that lists nothing up to it reads otherwise. -/
theorem not_wfFrom_succ_of_read_eq {m : Memory} {lo k : Nat} {b : Byte} {rest : Memory}
    (hcell : Memory.wfFrom lo ((k, b) :: rest) = true)
    (hread : ∀ a < 4096, Memory.read ((k, b) :: rest) a = Memory.read m a) :
    ¬Memory.wfFrom (k + 1) m = true := by
  intro hm
  obtain ⟨-, hk, hb, -⟩ := (wfFrom_cons_iff lo k b rest).mp hcell
  have hsame := hread k hk
  rw [read_cons_same, read_of_lt_wfFrom hm (Nat.lt_succ_self k)] at hsame
  exact hb hsame

theorem eq_of_wfFrom_of_read_eq {m n : Memory} {lo : Nat} (hm : Memory.wfFrom lo m = true)
    (hn : Memory.wfFrom lo n = true) (hread : ∀ a < 4096, Memory.read m a = Memory.read n a) : m = n := by
  induction m generalizing n lo with
  | nil =>
    cases n with
    | nil => rfl
    | cons c rest => exact absurd rfl (not_wfFrom_succ_of_read_eq hn fun a ha => (hread a ha).symm)
  | cons c rest ih =>
    obtain ⟨k, b⟩ := c
    cases n with
    | nil => exact absurd rfl (not_wfFrom_succ_of_read_eq hm hread)
    | cons c' rest' =>
      obtain ⟨k', b'⟩ := c'
      obtain ⟨-, hk, hb, hrest⟩ := (wfFrom_cons_iff lo k b rest).mp hm
      obtain ⟨-, hk', hb', hrest'⟩ := (wfFrom_cons_iff lo k' b' rest').mp hn
      rcases Nat.lt_trichotomy k k' with hlt | rfl | hgt
      · exact absurd ((wfFrom_cons_iff ..).mpr ⟨hlt, hk', hb', hrest'⟩) (not_wfFrom_succ_of_read_eq hm hread)
      · have hbyte : b = b' := by simpa only [read_cons_same] using hread k hk
        have htail : ∀ a < 4096, Memory.read rest a = Memory.read rest' a := by
          intro a ha
          by_cases hak : a = k
          · rw [read_of_lt_wfFrom hrest (by omega), read_of_lt_wfFrom hrest' (by omega)]
          · simpa only [read_cons_other _ _ hak] using hread a ha
        rw [hbyte, ih hrest hrest' htail]
      · exact absurd ((wfFrom_cons_iff ..).mpr ⟨hgt, hk, hb, hrest⟩)
          (not_wfFrom_succ_of_read_eq hn fun a ha => (hread a ha).symm)

/-- Settles O59: the lists agree cell by cell, since a cell that one lists and the other does not reads differently. -/
theorem canonicalMemoriesAreEqualData : Obligations.CanonicalMemoriesAreEqualData :=
  fun _ _ hm hn hread => eq_of_wfFrom_of_read_eq hm hn hread

end Sys2Proof.Machine
end
